-- ==== Sys2Proof/Word.lean ====
section
/-! DEFINITION. The word types of DGCORE: the 32-bit registers (00_scope.md R5), the 64-bit operands
(10_state.md R21, R22) and the 40-bit transaction words (30_encoding.md R76). -/

namespace Sys2Proof

/-- One byte of the register window (20_memory.md R53). -/
abbrev Byte := BitVec 8

/-- A host-visible register, and the value written to CMD: 32 bits (00_scope.md R5, 30_encoding.md R70). -/
abbrev Word := BitVec 32

/-- A 64-bit operand: a binary64 pattern or an unsigned integer (30_encoding.md R72, R73). -/
abbrev DWord := BitVec 64

/-- A transaction word (30_encoding.md R76): 40 bits. -/
abbrev Tw := BitVec 40

/-- A byte offset in the 64-byte register window: the 6-bit field OFF (30_encoding.md R76, 20_memory.md R50). -/
abbrev Offset := BitVec 6

end Sys2Proof
end

