-- ==== Sys2Proof/Config.lean ====
section
/-! DEFINITION. What the platform or the implementation fixes, and the free values (00_scope.md R5). -/

namespace Sys2Proof

/-- The window's number: the platform places the window at 64 times it (20_memory.md R50). Uninterpreted: no statement
can rest on its value (entry 10). -/
opaque Config.cvtBaseIndex : Nat

/-- The window is 64 bytes long (20_memory.md R50, 00_scope.md R5). -/
def Config.windowSize : Nat := 64

/-- CVT_BASE, an OPEN parameter, a multiple of 64 (00_scope.md R5, 20_memory.md R50). -/
def Config.cvtBase : Nat := Config.windowSize * Config.cvtBaseIndex

/-- The completion delay of the n-th accepted command: how many host accesses are answered between its acceptance and
its completion, "any number n >= 0, a draw the model leaves free" (42_host_access.md R168). A FREE VALUE (entry 2). -/
opaque Config.completionDelay : Nat → Nat

end Sys2Proof
end

