-- ==== Sys2Proof/Machine/State.lean ====
section
/-! DEFINITION. The state of DGCORE (10_state.md R20), the host's side of its one port, and the reasons a step can stop. -/

namespace Sys2Proof.Machine

/-- The contents of PEND when it is not empty (10_state.md R28): the accepted CMD value and the operands latched with it. -/
structure Pend where
  v : Word
  a : DWord
  b : DWord
deriving DecidableEq, Repr

/-- What a bus access answers (00_scope.md R9). -/
inductive Answer where
  | data (v : Word)
  | ack
  | busErr
deriving DecidableEq, Repr

/-- What comes to DGCORE from outside. In the bus forms `data` is the value of a write, and `none` says a read. -/
inductive HostInput where
  /-- A 4-byte access spelled as a transaction word (30_encoding.md R76). -/
  | word (w : Tw)
  /-- `BusRead(off, w)` or `BusWrite(off, w, v)` (00_scope.md R9): an access of any width at an offset of the window. -/
  | bus (off : Offset) (width : Nat) (data : Option Word)
  /-- `MemRead(addr, n)` or `MemWrite(addr, n, v)` (00_scope.md R9): an access at a byte address of the platform. -/
  | mem (addr : Nat) (width : Nat) (data : Option Word)
  /-- The reset input is asserted while no access is in progress (70_reset_and_hazards.md R210): behind an answered
  access, or while the access in front is held (R211, entry 6). -/
  | reset
  /-- An access that reset cuts off: the reset input is asserted while this access is in progress, so DGCORE does not
  answer it (70_reset_and_hazards.md R211). Which access it was makes no difference to DGCORE (entry 6). -/
  | resetInAccess (off : Offset) (width : Nat) (data : Option Word)
deriving DecidableEq, Repr

/-- DGCORE's registers and its hidden latch, and the model's view of the host beside them.
The constant tables are not state (70_reset_and_hazards.md R210); CMD stores nothing (10_state.md R23). -/
structure State where
  /-- OPA bits 31:0 (10_state.md R21). -/
  opaLo : Word
  /-- OPA bits 63:32 (10_state.md R21). -/
  opaHi : Word
  /-- OPB bits 31:0 (10_state.md R22). -/
  opbLo : Word
  /-- OPB bits 63:32 (10_state.md R22). -/
  opbHi : Word
  /-- STATUS (10_state.md R24); its fields are read and written in Machine/Flags.lean. -/
  status : Word
  /-- mantissaLow (10_state.md R25). -/
  resLo : Word
  /-- mantissaMid (10_state.md R25). -/
  resMid : Word
  /-- mantissaHigh (10_state.md R25). -/
  resHi : Word
  /-- The flags word (10_state.md R26). -/
  resFlags : Word
  /-- PEND, empty or a pending command (10_state.md R28). -/
  pend : Option Pend
  /-- The model's own: what the host has yet to have answered, in issue order (entry 3). -/
  inputs : List HostInput
  /-- The model's own: the answers given, oldest first (entry 16). -/
  answers : List Answer
  /-- The model's own: how many completion delays have been drawn (entry 2). -/
  draws : Nat
  /-- The model's own: how many host accesses are still answered before the pending command completes (entry 2). -/
  delay : Nat
deriving DecidableEq, Repr

/-- Why the model stops where the spec gives no step. -/
inductive Fault where
  /-- Raised by the step on an access at a byte address outside the register window: it does not reach DGCORE, and no
  rule says what answers it (20_memory.md R50). Safe (entry 10). -/
  | outsideWindow
  /-- Raised by the meaning of a command when PEND is empty: completion is enabled exactly when PEND is not empty
  (42_host_access.md R165). The step never asks for it. Safe (entry 7). -/
  | completionNotEnabled
deriving DecidableEq, Repr

/-- What the model has no meaning for. -/
inductive Refusal where
  /-- Raised by exec for an instruction that has no meaning yet; no arm raises it now. Safe. -/
  | notModelled (mnemonic : String)
  /-- Raised by the step on a transaction word with K = 00 or 11, which "reach no model step" (30_encoding.md R79).
  Safe (entry 11). -/
  | kindSpellsNoTransaction
  /-- Raised by the step on a RD whose DATA is not zero, which spells no transaction (30_encoding.md R79).
  Safe (entry 11). -/
  | readCarriesData
deriving DecidableEq, Repr

/-- The machine right after reset: every register 0 and PEND empty (70_reset_and_hazards.md R210, 10_state.md R21 to
R28). The model's own fields start empty and at 0 (entry 1). -/
def State.reset : State where
  opaLo := 0#32
  opaHi := 0#32
  opbLo := 0#32
  opbHi := 0#32
  status := 0#32
  resLo := 0#32
  resMid := 0#32
  resHi := 0#32
  resFlags := 0#32
  pend := none
  inputs := []
  answers := []
  draws := 0
  delay := 0

end Sys2Proof.Machine
end

