-- ==== Sys2Proof/Machine/Flags.lean ====
section
/-! DEFINITION. STATUS, the only flag state of DGCORE (10_state.md R24), and the outcome codes (60_exceptions.md R180). -/

namespace Sys2Proof.Machine

/-- The outcome codes of 60_exceptions.md R180. -/
inductive Code where
  | none
  | overflow
  | invalidInput
  | illegalCmd
deriving DecidableEq, Repr

/-- The number of an outcome code in STATUS.ERR (60_exceptions.md R180). -/
def Code.bits : Code → BitVec 3
  | .none => 0#3
  | .overflow => 1#3
  | .invalidInput => 2#3
  | .illegalCmd => 3#3

/-- STATUS.BUSY, bit 0 (10_state.md R24). -/
def statusBusy (w : Word) : Bool := w.getLsbD 0

/-- STATUS.DONE, bit 1 (10_state.md R24). -/
def statusDone (w : Word) : Bool := w.getLsbD 1

/-- STATUS.ERR, bits 10:8 (10_state.md R24). -/
def statusErr (w : Word) : BitVec 3 := w.extractLsb' 8 3

/-- STATUS.LASTOP, bits 19:16 (10_state.md R24). -/
def statusLastop (w : Word) : BitVec 4 := w.extractLsb' 16 4

/-- The reserved bits 7:2, 15:11 and 31:20 of STATUS, in place; all other bits 0 (10_state.md R24). -/
def statusReserved (w : Word) : Word := w &&& 0xFFF0F8FC#32

/-- `STATUS.BUSY <- x`, every other bit kept. -/
def setBusy (w : Word) (x : Bool) : Word := w.extractLsb' 1 31 ++ BitVec.ofBool x

/-- `STATUS.DONE <- x`, every other bit kept. -/
def setDone (w : Word) (x : Bool) : Word := w.extractLsb' 2 30 ++ BitVec.ofBool x ++ w.extractLsb' 0 1

/-- `STATUS.ERR <- x`, every other bit kept. -/
def setErr (w : Word) (x : BitVec 3) : Word := w.extractLsb' 11 21 ++ x ++ w.extractLsb' 0 8

/-- `STATUS.LASTOP <- x`, every other bit kept. -/
def setLastop (w : Word) (x : BitVec 4) : Word := w.extractLsb' 20 12 ++ x ++ w.extractLsb' 0 16

/-- STATUS after the acceptance of CMD value v (42_host_access.md R164). -/
def statusOnAccept (w v : Word) : Word :=
  setLastop (setErr (setDone (setBusy w true) false) 0#3) (v.extractLsb' 0 4)

/-- STATUS after a completion with outcome c (42_host_access.md R165). -/
def statusOnComplete (w : Word) (c : Code) : Word :=
  setBusy (setDone (setErr w c.bits) true) false

/-- STATUS.BUSY of a state. -/
def State.busy (s : State) : Bool := statusBusy s.status

/-- STATUS.DONE of a state. -/
def State.done (s : State) : Bool := statusDone s.status

/-- STATUS.ERR of a state. -/
def State.err (s : State) : BitVec 3 := statusErr s.status

/-- STATUS.LASTOP of a state. -/
def State.lastop (s : State) : BitVec 4 := statusLastop s.status

end Sys2Proof.Machine
end

