-- ==== Sys2Proof/Machine/Operands.lean ====
section
/-! DEFINITION. The operand forms: the 64-bit operands over their register halves, the register at an offset, the decimal
record and its layout, and the bytes of the window. -/

namespace Sys2Proof.Machine

/-- `OPA = {R[OPA_HI], R[OPA_LO]}` (10_state.md R21). -/
def State.opa (s : State) : DWord := s.opaHi ++ s.opaLo

/-- `OPB = {R[OPB_HI], R[OPB_LO]}` (10_state.md R22). -/
def State.opb (s : State) : DWord := s.opbHi ++ s.opbLo

/-- The ten register names of the window (10_state.md R20, 30_encoding.md R77). -/
inductive Reg where
  | opaLo | opaHi | opbLo | opbHi | cmd | status | resLo | resMid | resHi | resFlags
deriving DecidableEq, Repr

/-- The address map of 20_memory.md R51. -/
def Reg.offset : Reg → Offset
  | .opaLo => 0x00#6
  | .opaHi => 0x04#6
  | .opbLo => 0x08#6
  | .opbHi => 0x0C#6
  | .cmd => 0x10#6
  | .status => 0x14#6
  | .resLo => 0x18#6
  | .resMid => 0x1C#6
  | .resHi => 0x20#6
  | .resFlags => 0x24#6

/-- The register whose first byte stands at an offset (20_memory.md R51); none at the reserved and the misaligned
offsets. -/
def regAt (off : Offset) : Option Reg :=
  match off.toNat with
  | 0x00 => some .opaLo
  | 0x04 => some .opaHi
  | 0x08 => some .opbLo
  | 0x0C => some .opbHi
  | 0x10 => some .cmd
  | 0x14 => some .status
  | 0x18 => some .resLo
  | 0x1C => some .resMid
  | 0x20 => some .resHi
  | 0x24 => some .resFlags
  | _ => none

/-- What a register reads as (42_host_access.md R160). CMD reads 0: it stores nothing (10_state.md R23). -/
def State.readReg (s : State) : Reg → Word
  | .opaLo => s.opaLo
  | .opaHi => s.opaHi
  | .opbLo => s.opbLo
  | .opbHi => s.opbHi
  | .cmd => 0#32
  | .status => s.status
  | .resLo => s.resLo
  | .resMid => s.resMid
  | .resHi => s.resHi
  | .resFlags => s.resFlags

/-- The byte of the window at offset n, each word little-endian and the word of the lower offset first (20_memory.md R53,
R54); none at the reserved offsets and past the window. No access sees part of a register (R54): this is the image a host reads word by
word. -/
def State.windowByte (s : State) (n : Nat) : Option Byte :=
  if n < Config.windowSize then
    (regAt (BitVec.ofNat 6 (n / 4 * 4))).map fun r => (s.readReg r).extractLsb' (n % 4 * 8) 8
  else none

/-- The four words of one decimal value (10_state.md R25, R26). -/
structure Record where
  lo : Word
  mid : Word
  hi : Word
  flags : Word
deriving DecidableEq, Repr

/-- The zero decimal: all four words zero (00_scope.md R15). -/
def Record.zero : Record := ⟨0#32, 0#32, 0#32, 0#32⟩

/-- The 96-bit mantissa `M = {HI, MID, LO}` (10_state.md R25). -/
def Record.mantissa (r : Record) : BitVec 96 := r.hi ++ r.mid ++ r.lo

/-- The sign, bit 31 of the flags word (10_state.md R26). -/
def Record.sign (r : Record) : Bool := r.flags.getLsbD 31

/-- The scale, bits 23:16 of the flags word (10_state.md R26). -/
def Record.scale (r : Record) : Nat := (r.flags.extractLsb' 16 8).toNat

/-- The reserved bits 30:24 and 15:0 of the flags word, in place; all other bits 0 (10_state.md R26). -/
def flagsReserved (w : Word) : Word := w &&& 0x7F00FFFF#32

/-- "Semantic value = (sign ? -1 : 1) * M / 10^scale" (10_state.md R27). -/
def Record.value (r : Record) : ℚ :=
  (if r.sign then -1 else 1) * (r.mantissa.toNat : ℚ) / 10 ^ r.scale

/-- `RES_FLAGS = {sign, 0000000, scale[7:0], 0x0000}` (30_encoding.md R74). -/
def packFlags (sign : Bool) (scale : Nat) : Word :=
  BitVec.ofBool sign ++ 0#7 ++ BitVec.ofNat 8 scale ++ 0#16

/-- `pack(s, scale, M)` (40_convert.md R115). -/
def pack (sign : Bool) (scale mantissa : Nat) : Record where
  lo := BitVec.ofNat 32 mantissa
  mid := BitVec.ofNat 32 (mantissa / 2 ^ 32)
  hi := BitVec.ofNat 32 (mantissa / 2 ^ 64)
  flags := packFlags sign scale

/-- The record held in RES_* (10_state.md R27). -/
def State.result (s : State) : Record := ⟨s.resLo, s.resMid, s.resHi, s.resFlags⟩

/-- What a command ends with (40_convert.md R100, 41_multiply.md R140). -/
structure Ending where
  code : Code
  record : Record
deriving DecidableEq, Repr

/-- `fail(code)`: the command ends with an error (00_scope.md R9). -/
def fail (c : Code) : Ending := ⟨c, .zero⟩

/-- `ok(record)`: the command ends without error (00_scope.md R9). -/
def ok (r : Record) : Ending := ⟨.none, r⟩

end Sys2Proof.Machine
end

