-- ==== Sys2Proof/Machine/Ops.lean ====
section
/-! DEFINITION. The named operations over the registers: admission, the hold, answering, acceptance, completion, and
reset. DGCORE has no trap entry and no trap return (60_exceptions.md R189, R190): what an error leaves is the outcome
code and the zero record that `State.complete` writes, the one place every error of a command goes through. -/

namespace Sys2Proof.Machine

/-- 42_host_access.md R162: width 4, offset a multiple of 4, offset at most 0x24. -/
def admitted (off : Offset) (width : Nat) : Bool :=
  width == 4 && off.toNat % 4 == 0 && decide (off.toNat ≤ 0x24)

/-- A RD of this offset is held (42_host_access.md R160, R167): a command is pending and it is no RD of STATUS. -/
def State.holdsRead (s : State) (off : Offset) : Bool := s.busy && off != 0x14#6

/-- A WR is held (42_host_access.md R161, R167): a command is pending. -/
def State.holdsWrite (s : State) : Bool := s.busy

/-- The host's oldest access is answered: the answer is given, the next access is the host's oldest, and one of the
accesses that the completion delay counts has taken place (42_host_access.md R168). -/
def State.respond (s : State) (a : Answer) : State :=
  { s with answers := s.answers ++ [a], inputs := s.inputs.tail, delay := s.delay - 1 }

/-- `accept(v)` (42_host_access.md R164). The completion delay of R168 is drawn here. RES_* keep their values. -/
def State.accept (s : State) (v : Word) : State :=
  { s with
    pend := some ⟨v, s.opa, s.opb⟩
    status := statusOnAccept s.status v
    delay := Config.completionDelay s.draws
    draws := s.draws + 1 }

/-- A write to a register (42_host_access.md R161): operand registers are replaced, CMD accepts a command, and the
read-only registers ignore it (20_memory.md R58). -/
def State.writeReg (s : State) (r : Reg) (v : Word) : State :=
  match r with
  | .opaLo => { s with opaLo := v }
  | .opaHi => { s with opaHi := v }
  | .opbLo => { s with opbLo := v }
  | .opbHi => { s with opbHi := v }
  | .cmd => s.accept v
  | .status | .resLo | .resMid | .resHi | .resFlags => s

/-- What completion writes to RES_*: the command's record, or the zero decimal on any error (60_exceptions.md R187). -/
def Ending.delivered (e : Ending) : Record := if e.code = .none then e.record else .zero

/-- Completion with the ending of DISPATCH (42_host_access.md R165): all its writes take effect together. -/
def State.complete (s : State) (e : Ending) : State :=
  { s with
    resLo := e.delivered.lo
    resMid := e.delivered.mid
    resHi := e.delivered.hi
    resFlags := e.delivered.flags
    status := statusOnComplete s.status e.code
    pend := none
    delay := 0 }

/-- Completion of an illegal command, with `(ILLEGAL_CMD, ZERO)` (60_exceptions.md R183, 42_host_access.md R166). -/
def State.completeIllegal (s : State) : State := s.complete (fail .illegalCmd)

/-- What the host has left after a reset: an access in progress or held when reset is asserted is not answered by DGCORE
(70_reset_and_hazards.md R211). One in progress goes with its own item, one held with the assertion of reset that stands
behind it (entry 6). -/
def afterReset : List HostInput → List HostInput
  | .reset :: rest => rest
  | .resetInAccess _ _ _ :: rest => rest
  | _ :: .reset :: rest => rest
  | rest => rest

/-- Reset asserted (70_reset_and_hazards.md R210, R211): every register at its reset value, PEND empty. What the host was
answered before, and what it has yet to issue, are the host's. -/
def State.assertReset (s : State) : State :=
  { State.reset with inputs := afterReset s.inputs, answers := s.answers, draws := s.draws }

end Sys2Proof.Machine
end

