-- ==== Sys2Proof/Machine/Multiply.lean ====
section
/-! DEFINITION. MUL64 and the widening multiplies (41_multiply.md). -/

namespace Sys2Proof.Machine

/-- `WIDE(a, b)` (41_multiply.md R141): the exact 128-bit product, and whether its top 32 bits are not zero. -/
def wide (a b : DWord) : BitVec 128 × Bool :=
  let p := a.setWidth 128 * b.setWidth 128
  (p, p.extractLsb' 96 32 != 0#32)

/-- The datapath of WIDE (41_multiply.md R142): four exact 64-bit partial products of the 32-bit halves, accumulated. -/
def wideDatapath (a b : DWord) : BitVec 128 :=
  let a0 : DWord := (a.extractLsb' 0 32).setWidth 64
  let a1 : DWord := (a.extractLsb' 32 32).setWidth 64
  let b0 : DWord := (b.extractLsb' 0 32).setWidth 64
  let b1 : DWord := (b.extractLsb' 32 32).setWidth 64
  let pp00 := a0 * b0
  let pp01 := a0 * b1
  let pp10 := a1 * b0
  let pp11 := a1 * b1
  pp00.setWidth 128 + ((pp01.setWidth 128 + pp10.setWidth 128) <<< 32) + (pp11.setWidth 128 <<< 64)

/-- `MUL64x32(m, k)` (41_multiply.md R144): the exact product, always below 2^96. -/
def mul64x32 (m : DWord) (k : Word) : BitVec 96 := m.setWidth 96 * k.setWidth 96

/-- `MUL64(a, b)` (41_multiply.md R140, R143). -/
def mul64 (a b : DWord) : Ending :=
  if (wide a b).2 then fail .overflow
  else
    ok { lo := (wide a b).1.extractLsb' 0 32
         mid := (wide a b).1.extractLsb' 32 32
         hi := (wide a b).1.extractLsb' 64 32
         flags := 0#32 }

/-- MUL64 performed by the unit (41_multiply.md R140, 42_host_access.md R165): the latched operands are multiplied and
the pending command completes. -/
def execMul64 (s : State) : Host.Outcome State Fault Refusal :=
  match s.pend with
  | some p => .next (s.complete (mul64 p.a p.b))
  | none => .fault .completionNotEnabled

end Sys2Proof.Machine
end

