-- ==== Sys2Proof/Machine/Binary64.lean ====
section
/-! DEFINITION. Binary64 values and their arithmetic (00_scope.md R10 to R12).

Every finite binary64 value is a whole multiple of 2^-1074, the spacing of the subnormals (R10). The converter works on
absolute values only, so in its arithmetic a non-negative binary64 value is held as that multiple, a natural number:
comparing values is comparing numbers, and `unit` is the value 1 (entry 9). -/

namespace Sys2Proof.Machine

/-- The value 1. -/
def unit : Nat := 2 ^ 1074

/-- The sign `a[63]` (00_scope.md R10). -/
def signBit (a : DWord) : Bool := a.getLsbD 63

/-- The biased exponent `E = a[62:52]` (00_scope.md R10). -/
def expField (a : DWord) : Nat := (a.extractLsb' 52 11).toNat

/-- The fraction `F = a[51:0]` (00_scope.md R10). -/
def fracField (a : DWord) : Nat := (a.extractLsb' 0 52).toNat

/-- `abs64(a) = {0, a[62:0]}` (00_scope.md R10). -/
def abs64 (a : DWord) : DWord := 0#1 ++ a.extractLsb' 0 63

/-- The magnitude of a finite pattern (00_scope.md R10): `(2^52 + F) * 2^(E - 1075)`, or `F * 2^-1074` when E = 0. -/
def magnitude (a : DWord) : Nat :=
  if expField a = 0 then fracField a else (2 ^ 52 + fracField a) * 2 ^ (expField a - 1)

/-- The value of a pattern (00_scope.md R10): a real number, in multiples of 2^-1074; an infinity; or a NaN. -/
inductive F64Value where
  | finite (x : ℤ)
  | infinity (negative : Bool)
  | nan
deriving DecidableEq, Repr

/-- `f64val(a)`, for every pattern (00_scope.md R10). The converter goes on with finite patterns only (40_convert.md R102),
whose value with the sign cleared is `magnitude`. -/
def f64val (a : DWord) : F64Value :=
  if expField a = 2047 then if fracField a = 0 then .infinity (signBit a) else .nan
  else .finite (if signBit a then -(magnitude a : ℤ) else magnitude a)

/-- The integer nearest to num / den, a tie going to the even one. -/
def roundNearestEven (num den : Nat) : Nat :=
  let q := num / den
  let r := num % den
  if den < 2 * r ∨ (2 * r = den ∧ q % 2 = 1) then q + 1 else q

/-- The spacing of binary64 values around num / den, both in multiples of 2^-1074: 53 significant bits, and at least 1,
the spacing of the subnormals (00_scope.md R10). -/
def spacing (num den : Nat) : Nat := 2 ^ ((num / den).log2 - 52)

/-- `rne`, roundTiesToEven (00_scope.md R11), of the value num / den in multiples of 2^-1074. -/
def rne (num den : Nat) : Nat := roundNearestEven num (den * spacing num den) * spacing num den

/-- `fmul(x, y) = rne(x*y)` (00_scope.md R11). -/
def fmul (x y : Nat) : Nat := rne (x * y) unit

/-- `fdiv(x, y) = rne(x/y)` (00_scope.md R11). -/
def fdiv (x y : Nat) : Nat := rne (x * unit) y

/-- `fsub(x, y) = rne(x-y)` (00_scope.md R11), for y at most x, which is its one use (40_convert.md R111). -/
def fsub (x y : Nat) : Nat := rne (x - y) 1

/-- `trunc(x) = floor(x)` (00_scope.md R12). -/
def trunc (x : Nat) : Nat := x / unit

/-- `toF64(n)`, the binary64 value equal to n (00_scope.md R12). -/
def toF64 (n : Nat) : Nat := n * unit

/-- The constant 0.5 (00_scope.md R12). -/
def half : Nat := 2 ^ 1073

end Sys2Proof.Machine
end

