-- ==== Sys2Proof/Machine/Tables.lean ====
section
/-! DEFINITION. The three read-only constant tables (10_state.md R29 to R31). They are not reset, cannot be written and are
not state (70_reset_and_hazards.md R210), so they are constants and not fields of State (entry 13). -/

namespace Sys2Proof.Machine

/-- T_D: 81 binary64 constants, `T_D[k] = rne(10^k)`, k = 0..80 (10_state.md R29). -/
def tableD : List Nat := (List.range 81).map fun k => rne (10 ^ k * unit) 1

/-- T_U64: 20 unsigned 64-bit constants, `T_U64[k] = 10^k`, k = 0..19 (10_state.md R30). -/
def tableU64 : List DWord := (List.range 20).map fun k => BitVec.ofNat 64 (10 ^ k)

/-- T_U32: 10 unsigned 32-bit constants, `T_U32[k] = 10^k`, k = 0..9 (10_state.md R31). -/
def tableU32 : List Word := (List.range 10).map fun k => BitVec.ofNat 32 (10 ^ k)

/-- Entry k of T_D. The converter reads k = 0..28 only (40_convert.md R116). -/
def powD (k : Nat) : Nat := tableD.getD k 0

/-- Entry k of T_U64. The converter reads k = 10..14 only (10_state.md R30). -/
def powU64 (k : Nat) : DWord := tableU64.getD k 0

/-- Entry k of T_U32. The converter reads k = 1..9 only (10_state.md R31). -/
def powU32 (k : Nat) : Word := tableU32.getD k 0

end Sys2Proof.Machine
end

