-- ==== Sys2Proof/Machine/Convert.lean ====
section
/-! DEFINITION. CVT_F64, binary64 to decimal record, step by step (40_convert.md). -/

namespace Sys2Proof.Machine

/-- `exp = E - 1022` (40_convert.md R103, 90_conflicts.md C1). -/
def cvtExp (a : DWord) : ℤ := (expField a : ℤ) - 1022

/-- `power0 = 14 - ((exp * 19728) >> 16)`, the shift rounding toward minus infinity (40_convert.md R107, 00_scope.md R13);
`/` on integers with a positive divisor is that floor. -/
def scaleEstimate (exp : ℤ) : ℤ := 14 - exp * 19728 / 65536

/-- A binary64 value and the working decimal scale beside it (00_scope.md R15, `power` and d). -/
structure Scaled where
  d : Nat
  power : ℤ
deriving DecidableEq, Repr

/-- Scale up by T_D[min(power0, 28)] (40_convert.md R108), for power0 at least 0. -/
def scaleUp (d : Nat) (power0 : ℤ) : Scaled :=
  let power := min power0 28
  ⟨fmul d (powD power.toNat), power⟩

/-- Scale down by T_D[-power0], but for power0 = -1 with d below 10^15, where the division is skipped and power becomes 0
(40_convert.md R109, 90_conflicts.md C5). -/
def scaleDown (d : Nat) (power0 : ℤ) : Scaled :=
  if power0 ≠ -1 ∨ toF64 (10 ^ 15) ≤ d then ⟨fdiv d (powD (-power0).toNat), power0⟩
  else ⟨d, 0⟩

/-- Second-chance normalisation, once (40_convert.md R110). -/
def renorm (x : Scaled) : Scaled :=
  if x.d < toF64 (10 ^ 14) ∧ x.power < 28 then ⟨fmul x.d (toF64 10), x.power + 1⟩ else x

/-- The scaling of a magnitude whose exponent is exp: estimate, scale, renormalise (40_convert.md R107 to R110). -/
def scaleMagnitude (d : Nat) (exp : ℤ) : Scaled :=
  let power0 := scaleEstimate exp
  renorm (if 0 ≤ power0 then scaleUp d power0 else scaleDown d power0)

/-- The truncated value t rounded by its remainder r, half to even (40_convert.md R111). -/
def roundByRemainder (t : Nat) (r : Nat) : Nat :=
  if half < r ∨ (r = half ∧ t % 2 = 1) then t + 1 else t

/-- Round to an integer mantissa: truncate, and inspect the remainder (40_convert.md R111). -/
def roundMantissa (d2 : Nat) : Nat := roundByRemainder (trunc d2) (fsub d2 (toF64 (trunc d2)))

/-- Widen by 10^p, p = -power (40_convert.md R113): MUL64x32 below 10, WIDE from 10 on; none when WIDE overflows. -/
def widen (mant : Nat) (power : ℤ) : Option (BitVec 96) :=
  let p := (-power).toNat
  if p < 10 then some (mul64x32 (BitVec.ofNat 64 mant) (powU32 p))
  else
    let w := wide (BitVec.ofNat 64 mant) (powU64 p)
    if w.2 then none else some (w.1.extractLsb' 0 96)

/-- The working values of the trailing-zero factoring (40_convert.md R114). -/
structure Factoring where
  mant : Nat
  power : ℤ
  lmax : ℤ
deriving DecidableEq, Repr

/-- One k of the factoring (40_convert.md R114): 10^k comes off if the headroom permits it and the division is exact. -/
def factorStep (k : Nat) (f : Factoring) : Factoring :=
  if (k : ℤ) ≤ f.lmax ∧ f.mant % (powU32 k).toNat = 0 then
    ⟨f.mant / (powU32 k).toNat, f.power - k, f.lmax - k⟩
  else f

/-- Factor trailing zeros: k = 8, 4, 2, 1, each tried once in this order, the headroom starting at min(power, 14)
(40_convert.md R114). -/
def factor (mant : Nat) (power : ℤ) : Factoring :=
  factorStep 1 (factorStep 2 (factorStep 4 (factorStep 8 ⟨mant, power, min power 14⟩)))

/-- From the rounded mantissa to the record: zero, widen or factor, and pack (40_convert.md R112 to R115). -/
def assembleMantissa (sign : Bool) (mant : Nat) (power : ℤ) : Ending :=
  if mant = 0 then ok .zero
  else if power < 0 then
    match widen mant power with
    | none => fail .overflow
    | some m => ok (pack sign 0 m.toNat)
  else ok (pack sign (factor mant power).power.toNat (factor mant power).mant)

/-- From the scaled value to the record (40_convert.md R111 to R115). -/
def assemble (sign : Bool) (x : Scaled) : Ending := assembleMantissa sign (roundMantissa x.d) x.power

/-- `CVT(a)` (40_convert.md R100), the checks in the order of 60_exceptions.md R186. -/
def cvt (a : DWord) : Ending :=
  if expField a = 2047 then fail .invalidInput
  else if cvtExp a < -94 then ok .zero
  else if 96 < cvtExp a then fail .overflow
  else assemble (signBit a) (scaleMagnitude (magnitude (abs64 a)) (cvtExp a))

/-- CVT_F64 performed by the unit (40_convert.md R100, 42_host_access.md R165): the latched operand A is converted and
the pending command completes. -/
def execCvtF64 (s : State) : Host.Outcome State Fault Refusal :=
  match s.pend with
  | some p => .next (s.complete (cvt p.a))
  | none => .fault .completionNotEnabled

end Sys2Proof.Machine
end

