-- ==== Sys2Proof/Machine/HostAccess.lean ====
section
/-! DEFINITION. RD and WR, the two host instructions (42_host_access.md). The checks of one access come in the order of
R163: admission, the hold, the effect. -/

namespace Sys2Proof.Machine

/-- What a RD at an offset answers when it is admitted and not held (42_host_access.md R160). -/
def State.readAt (s : State) (off : Offset) : Word :=
  match regAt off with
  | some r => s.readReg r
  | none => 0#32

/-- The effect of a WR at an offset when it is admitted and not held (42_host_access.md R161). -/
def State.writeAt (s : State) (off : Offset) (v : Word) : State :=
  match regAt off with
  | some r => s.writeReg r v
  | none => s

/-- RD (42_host_access.md R160). A held access has no step (R167): it stays the host's oldest and nothing changes; the
step lets the unit complete instead (entry 5). -/
def execRd (off : Offset) (width : Nat) (s : State) : Host.Outcome State Fault Refusal :=
  if admitted off width then
    if s.holdsRead off then .next s
    else .next (s.respond (.data (s.readAt off)))
  else .next (s.respond .busErr)

/-- WR (42_host_access.md R161). A held access has no step (R167), as for RD. -/
def execWr (off : Offset) (width : Nat) (value : Word) (s : State) : Host.Outcome State Fault Refusal :=
  if admitted off width then
    if s.holdsWrite then .next s
    else .next ((s.respond .ack).writeAt off value)
  else .next (s.respond .busErr)

end Sys2Proof.Machine
end

