-- ==== Sys2Proof/Syntax.lean ====
section
/-! DEFINITION. The instructions of DGCORE, one constructor for each row of spec/opcode_table.json. -/

namespace Sys2Proof

/-- The two commands, which the unit performs from PEND, and the two host accesses.
The commands carry no fields: the whole 32-bit CMD value selects them (30_encoding.md R70, R71), and their operands
are the ones latched in PEND. The accesses carry a width in bytes, because 42_host_access.md R160 and R161 give them
one; a transaction word always means 4. -/
inductive Instr where
  /-- CVT_F64, convert binary64 to a decimal record (40_convert.md R100). -/
  | cvtF64
  /-- MUL64, unsigned 64x64 multiply with a 96-bit overflow check (41_multiply.md R140). -/
  | mul64
  /-- RD, read `width` bytes at offset `off` (42_host_access.md R160). -/
  | rd (off : Offset) (width : Nat)
  /-- WR, write `value` as `width` bytes at offset `off` (42_host_access.md R161). -/
  | wr (off : Offset) (width : Nat) (value : Word)
deriving DecidableEq, Repr

end Sys2Proof
end

