-- ==== Sys2Proof/Machine/Dispatch.lean ====
section
/-! DEFINITION. One arm per instruction, each one call of its meaning. -/

namespace Sys2Proof.Machine

/-- The effect of one instruction. -/
def exec (i : Instr) (s : State) : Host.Outcome State Fault Refusal :=
  match i with
  | .cvtF64 => Sys2Proof.Machine.execCvtF64 s
  | .mul64 => Sys2Proof.Machine.execMul64 s
  | .rd off width => Sys2Proof.Machine.execRd off width s
  | .wr off width value => Sys2Proof.Machine.execWr off width value s

end Sys2Proof.Machine
end

