-- ==== Sys2Proof/WellFormed.lean ====
section
/-! DEFINITION. Which instructions an encoding spells. A transaction word always means a 4-byte access
(30_encoding.md R76), so a host access of another width has no encoding: the host can still issue it on its bus
(20_memory.md R55), and its meaning answers BUSERR. -/

namespace Sys2Proof

/-- The instruction is the meaning of some command word or transaction word (30_encoding.md R71, R76). -/
def Instr.wellFormed : Instr → Bool
  | .cvtF64 => true
  | .mul64 => true
  | .rd _ width => width == 4
  | .wr _ width _ => width == 4

end Sys2Proof
end

