-- ==== Sys2Proof/Decode.lean ====
section
/-! DEFINITION. The decoders of command words and transaction words, total, rejecting by name, and the encoder
(30_encoding.md). Neither kind has prefixes, other lengths or a mode that changes its decoding (R80). -/

namespace Sys2Proof

/-- Why a word is no instruction. -/
inductive DecodeError where
  /-- A CMD value other than 1 and 2 (30_encoding.md R79). The command is still accepted and completes. -/
  | illegalCommand
  /-- A transaction word with K = 00 or 11 (30_encoding.md R76, R79). -/
  | kindSpellsNoTransaction
  /-- A RD whose DATA field is not zero (30_encoding.md R79). -/
  | readCarriesData
deriving DecidableEq, Repr

/-- What a decoder answers. -/
inductive Decoded where
  | instr (i : Instr)
  | rejected (e : DecodeError)
deriving DecidableEq, Repr

/-- The two encodings of 30_encoding.md: a value written to CMD (R70), a transaction word (R76). -/
inductive Encoded where
  | cmd (v : Word)
  | tw (w : Tw)
deriving DecidableEq, Repr

/-- Field K of a transaction word, bits 39:38 (30_encoding.md R76). -/
def twKind (w : Tw) : BitVec 2 := w.extractLsb' 38 2

/-- Field OFF of a transaction word, bits 37:32 (30_encoding.md R76). -/
def twOffset (w : Tw) : Offset := w.extractLsb' 32 6

/-- Field DATA of a transaction word, bits 31:0 (30_encoding.md R76). -/
def twData (w : Tw) : Word := w.extractLsb' 0 32

/-- The opcode map of 30_encoding.md R71: the whole 32-bit value selects the command. -/
def decodeCmd (v : Word) : Decoded :=
  if v = 0x00000001#32 then .instr .cvtF64
  else if v = 0x00000002#32 then .instr .mul64
  else .rejected .illegalCommand

/-- 30_encoding.md R76: K = 01 is RD with DATA zero, K = 10 is WR, both of width 4; the rest spells no transaction. -/
def decodeTw (w : Tw) : Decoded :=
  if twKind w = 0b01#2 then
    if twData w = 0#32 then .instr (.rd (twOffset w) 4) else .rejected .readCarriesData
  else if twKind w = 0b10#2 then .instr (.wr (twOffset w) 4 (twData w))
  else .rejected .kindSpellsNoTransaction

/-- Both decoders. -/
def decode : Encoded → Decoded
  | .cmd v => decodeCmd v
  | .tw w => decodeTw w

/-- `TW = K * 2^38 + OFF * 2^32 + DATA` (30_encoding.md R76). -/
def packTw (kind : BitVec 2) (off : Offset) (data : Word) : Tw := kind ++ off ++ data

/-- The word of a well-formed instruction (30_encoding.md R71, R76). An access of another width than 4 has no word; it
is given the word of the 4-byte access at the same offset. -/
def encode : Instr → Encoded
  | .cvtF64 => .cmd 0x00000001#32
  | .mul64 => .cmd 0x00000002#32
  | .rd off _ => .tw (packTw 0b01#2 off 0#32)
  | .wr off _ value => .tw (packTw 0b10#2 off value)

/-- The word of a row of spec/opcode_table.json: the rows of 32 bits are CMD values, the longer ones transaction words. -/
def tableWord (nbits w : Nat) : Encoded :=
  if nbits ≤ 32 then .cmd (BitVec.ofNat 32 w) else .tw (BitVec.ofNat 40 w)

/-- The instruction the decoder reads from a word numbered as spec/opcode_table.json numbers it. -/
def decodeTableWord (nbits w : Nat) : Option Instr :=
  match decode (tableWord nbits w) with
  | .instr i => some i
  | .rejected _ => none

end Sys2Proof
end

