-- ==== Sys2Proof/Machine/Fetch.lean ====
section
/-! DEFINITION. Which agent steps next, and what it performs. DGCORE fetches no instructions (10_state.md R33): the unit's
next command is the one in PEND, the host's next access is its oldest unanswered one. -/

namespace Sys2Proof.Machine

/-- What the next step performs. -/
inductive Fetched where
  /-- A command of the unit or an access of the host. -/
  | instr (i : Instr)
  /-- The completion of an illegal command (60_exceptions.md R183). -/
  | illegalCommand
  /-- The reset input (70_reset_and_hazards.md R210). -/
  | reset
  /-- No agent has a step: PEND is empty and the host has issued nothing (42_host_access.md R169). -/
  | idle
  /-- A transaction word that spells no transaction, K = 00 or 11 (30_encoding.md R79). -/
  | kindSpellsNoTransaction
  /-- A transaction word that spells no transaction, a RD with DATA not zero (30_encoding.md R79). -/
  | readCarriesData
  /-- An access at a byte address outside the window (entry 10). -/
  | outsideWindow
deriving DecidableEq, Repr

/-- The command in PEND, or the illegal command (42_host_access.md R166). -/
def unitFetch (p : Pend) : Fetched :=
  match decodeCmd p.v with
  | .instr i => .instr i
  | .rejected _ => .illegalCommand

/-- BusRead or BusWrite as RD or WR (00_scope.md R9). -/
def busAccess (off : Offset) (width : Nat) (data : Option Word) : Instr :=
  match data with
  | none => .rd off width
  | some v => .wr off width v

/-- `off = addr - CVT_BASE` (00_scope.md R9), where the address lies in the window. -/
def windowOffset (addr : Nat) : Option Offset :=
  if Config.cvtBase ≤ addr ∧ addr < Config.cvtBase + Config.windowSize then
    some (BitVec.ofNat 6 (addr - Config.cvtBase))
  else none

/-- What one input asks for. -/
def inputFetch : HostInput → Fetched
  | .word w =>
    match decodeTw w with
    | .instr i => .instr i
    | .rejected .readCarriesData => .readCarriesData
    | .rejected _ => .kindSpellsNoTransaction
  | .bus off width data => .instr (busAccess off width data)
  | .mem addr width data =>
    match windowOffset addr with
    | some off => .instr (busAccess off width data)
    | none => .outsideWindow
  | .reset => .reset
  | .resetInAccess _ _ _ => .reset

/-- The host's oldest input. -/
def State.hostFetch (s : State) : Fetched :=
  match s.inputs with
  | [] => .idle
  | x :: _ => inputFetch x

/-- An access is held (42_host_access.md R167): admitted, and held in its own form. -/
def State.holds (s : State) : Instr → Bool
  | .cvtF64 => false
  | .mul64 => false
  | .rd off width => admitted off width && s.holdsRead off
  | .wr off width _ => admitted off width && s.holdsWrite

/-- The input behind the host's oldest one is an assertion of reset. -/
def State.resetBehind (s : State) : Bool :=
  match s.inputs with
  | _ :: .reset :: _ => true
  | _ => false

/-- What the next step performs (42_host_access.md R165, R167, R168). While a command is pending the unit steps once the
drawn delay has run out, and before that when the host has no step: nothing issued, or its access held. A reset asserted
behind a held access comes before a completion whose delay has not run out (entries 2, 6). -/
def State.fetch (s : State) : Fetched :=
  match s.pend with
  | none => s.hostFetch
  | some p =>
    if s.delay = 0 then unitFetch p
    else
      match s.hostFetch with
      | .idle => unitFetch p
      | .instr i => if s.holds i then (if s.resetBehind then .reset else unitFetch p) else .instr i
      | other => other

end Sys2Proof.Machine
end

