-- ==== Sys2Proof/Machine/Step.lean ====
section
/-! DEFINITION. One step of DGCORE: one host access, one completion, or one reset (20_memory.md R59). -/

namespace Sys2Proof.Machine

/-- One step. With nothing pending and nothing issued the block stays idle: "all state survives" (60_exceptions.md R196,
entry 4). -/
def step (s : State) : Host.Outcome State Fault Refusal :=
  match s.fetch with
  | .instr i => exec i s
  | .illegalCommand => .next s.completeIllegal
  | .reset => .next s.assertReset
  | .idle => .next s
  | .kindSpellsNoTransaction => .refused .kindSpellsNoTransaction
  | .readCarriesData => .refused .readCarriesData
  | .outsideWindow => .fault .outsideWindow

/-- The word stored where the next step finds its instruction: a command word is accepted into PEND with the operands the
registers hold and its delay run out, so that the unit performs it next; a transaction word is made the host's oldest
access with nothing pending, so that it is performed next (entry 3). -/
def State.withFetchWord (s : State) (nbits w : Nat) : State :=
  match tableWord nbits w with
  | .cmd v => { s with pend := some ⟨v, s.opa, s.opb⟩, status := statusOnAccept s.status v, delay := 0 }
  | .tw t => { s with inputs := .word t :: s.inputs, pend := none, status := setBusy s.status false }

end Sys2Proof.Machine
end

