-- ==== Sys2Proof/Machine/HostPrograms.lean ====
section
/-! DEFINITION. The notation of host programs: one access per line, and the pseudo-instructions with their expansions to
transaction words (30_encoding.md R77, R78). -/

namespace Sys2Proof.Machine

/-- One line of a host program (30_encoding.md R77). Immediates are taken as they are. -/
inductive HostLine where
  | rd (r : Reg)
  | wr (r : Reg) (imm : Word)
  | rdAt (off : Offset)
  | wrAt (off : Offset) (imm : Word)
deriving DecidableEq, Repr

/-- The transaction word of a line (30_encoding.md R76, R77). -/
def HostLine.word : HostLine → Tw
  | .rd r => packTw 0b01#2 r.offset 0#32
  | .wr r imm => packTw 0b10#2 r.offset imm
  | .rdAt off => packTw 0b01#2 off 0#32
  | .wrAt off imm => packTw 0b10#2 off imm

/-- The pseudo-instructions of 30_encoding.md R78. `wait` repeats `RD STATUS`; how often is not fixed, and at least once,
so it carries the number of repetitions beyond the first. -/
inductive Pseudo where
  | lda (imm : DWord)
  | ldb (imm : DWord)
  | cvt (imm : DWord)
  | mul (a b : DWord)
  | wait (more : Nat)
  | rdres
deriving DecidableEq, Repr

/-- `LDA imm64` (30_encoding.md R78). -/
def expandLda (imm : DWord) : List HostLine :=
  [.wr .opaLo (imm.extractLsb' 0 32), .wr .opaHi (imm.extractLsb' 32 32)]

/-- `LDB imm64` (30_encoding.md R78). -/
def expandLdb (imm : DWord) : List HostLine :=
  [.wr .opbLo (imm.extractLsb' 0 32), .wr .opbHi (imm.extractLsb' 32 32)]

/-- The expansions of 30_encoding.md R78. -/
def Pseudo.expand : Pseudo → List HostLine
  | .lda imm => expandLda imm
  | .ldb imm => expandLdb imm
  | .cvt imm => expandLda imm ++ [.wr .cmd 0x00000001#32]
  | .mul a b => expandLda a ++ expandLdb b ++ [.wr .cmd 0x00000002#32]
  | .wait more => List.replicate (more + 1) (.rd .status)
  | .rdres => [.rd .resLo, .rd .resMid, .rd .resHi, .rd .resFlags]

/-- A host program as the inputs that spell it, in issue order (20_memory.md R59). -/
def hostProgram (lines : List HostLine) : List HostInput := lines.map fun l => .word l.word

end Sys2Proof.Machine
end

