-- ==== Sys2Proof/Safety.lean ====
section
/-! DEFINITION. The terms the statements use: a legal state, the end of a run, the ending DISPATCH gives a pending command,
and what it is to be the binary64 value nearest to a number. -/

namespace Sys2Proof.Machine

/-- What every state of DGCORE keeps: the field rules of STATUS and RES_FLAGS, and what links STATUS, PEND and RES_*. -/
structure State.Legal (s : State) : Prop where
  /-- BUSY is 1 exactly when PEND is not empty (10_state.md R28). -/
  busy_iff_pending : s.busy = s.pend.isSome
  /-- BUSY = 1 implies DONE = 0 and ERR = 0 (10_state.md R24). -/
  busy_clears : s.busy = true → s.done = false ∧ s.err = 0#3
  /-- The reserved bits of STATUS read as 0 (10_state.md R24). -/
  status_reserved : statusReserved s.status = 0#32
  /-- ERR values 4 to 7 are never produced (10_state.md R24). -/
  err_range : s.err.toNat ≤ 3
  /-- RES_FLAGS bits 30:24 and 15:0 are zero (10_state.md R26). -/
  flags_reserved : flagsReserved s.resFlags = 0#32
  /-- The scale is 0 to 28 (10_state.md R26). -/
  scale_range : s.result.scale ≤ 28
  /-- LASTOP is bits 3:0 of the pending command (10_state.md R24, 42_host_access.md R164). -/
  pending_lastop : ∀ p, s.pend = some p → s.lastop = p.v.extractLsb' 0 4
  /-- After an error the record is the zero decimal (60_exceptions.md R187). -/
  error_zero : s.err ≠ 0#3 → s.result = Record.zero
  /-- With nothing pending and nothing completed the block is as reset leaves it: STATUS and the record are 0
  (10_state.md R24, 70_reset_and_hazards.md R210). -/
  idle_undone : s.busy = false → s.done = false → s.status = 0#32 ∧ s.result = Record.zero

/-- The end of a host program's run (42_host_access.md R169): every access answered and PEND empty. An access that reset left
unanswered (70_reset_and_hazards.md R211) no longer waits and does not keep the run open: DESIGN CHOICE, the spec does not say
whether such a run is final (entry 18). -/
def State.final (s : State) : Bool := s.inputs.isEmpty && s.pend.isNone

/-- k steps, stopping at the first fault or refusal. -/
def runSteps : Nat → State → Host.Outcome State Fault Refusal
  | 0, s => .next s
  | k + 1, s =>
    match step s with
    | .next t => runSteps k t
    | .fault r => .fault r
    | .refused r => .refused r

/-- `DISPATCH(v, a, b)` as the table of 42_host_access.md R166. -/
def dispatch (p : Pend) : Ending :=
  if p.v = 1#32 then cvt p.a
  else if p.v = 2#32 then mul64 p.a p.b
  else fail .illegalCmd

/-- n, in multiples of 2^-1074, is a binary64 value: at most 53 significant bits (00_scope.md R10). The exponent has no
upper end here (entry 9). -/
def IsF64 (n : Nat) : Prop := ∃ m e : Nat, m < 2 ^ 53 ∧ n = m * 2 ^ e

/-- The significand of a binary64 value, whose last bit is the last bit of its fraction field (00_scope.md R10). -/
def significand (n : Nat) : Nat := n / 2 ^ (n.log2 - 52)

/-- r is roundTiesToEven of num / den (00_scope.md R11), all in multiples of 2^-1074: a binary64 value, no other one is
nearer, and where another one is as near, the fraction field of r is even. -/
def NearestTiesToEven (r : Nat) (num den : Nat) : Prop :=
  IsF64 r ∧ ∀ y : Nat, IsF64 y →
    |(r : ℤ) * den - num| ≤ |(y : ℤ) * den - num| ∧
    (|(r : ℤ) * den - num| = |(y : ℤ) * den - num| → y = r ∨ significand r % 2 = 0)

/-- The register part of a state is the same: the nine registers and PEND (10_state.md R20). -/
structure SameRegisters (s t : State) : Prop where
  opaLo : t.opaLo = s.opaLo
  opaHi : t.opaHi = s.opaHi
  opbLo : t.opbLo = s.opbLo
  opbHi : t.opbHi = s.opbHi
  status : t.status = s.status
  resLo : t.resLo = s.resLo
  resMid : t.resMid = s.resMid
  resHi : t.resHi = s.resHi
  resFlags : t.resFlags = s.resFlags
  pend : t.pend = s.pend

/-- What a completion leaves unchanged: the operand registers (10_state.md R21, R22), STATUS.LASTOP and the reserved bits
of STATUS (R24), and the host's side. -/
structure CompletionFrame (s t : State) : Prop where
  opaLo : t.opaLo = s.opaLo
  opaHi : t.opaHi = s.opaHi
  opbLo : t.opbLo = s.opbLo
  opbHi : t.opbHi = s.opbHi
  lastop : t.lastop = s.lastop
  reserved : statusReserved t.status = statusReserved s.status
  inputs : t.inputs = s.inputs
  answers : t.answers = s.answers
  draws : t.draws = s.draws

/-- The host access that an input stands for, for each of its three forms: a transaction word (30_encoding.md R76), an access
at an offset of the window, and one at the byte address CVT_BASE plus that offset (00_scope.md R9). -/
inductive Spells : HostInput → Instr → Prop where
  | word (w : Tw) (i : Instr) (h : decodeTw w = .instr i) : Spells (.word w) i
  | busRead (off : Offset) (width : Nat) : Spells (.bus off width none) (.rd off width)
  | busWrite (off : Offset) (width : Nat) (v : Word) : Spells (.bus off width (some v)) (.wr off width v)
  | memRead (off : Offset) (width : Nat) : Spells (.mem (Config.cvtBase + off.toNat) width none) (.rd off width)
  | memWrite (off : Offset) (width : Nat) (v : Word) :
    Spells (.mem (Config.cvtBase + off.toNat) width (some v)) (.wr off width v)

/-- The host side after one access is answered: the answer is given, and the access is no longer waiting. -/
def Answered (s t : State) (a : Answer) : Prop := t.answers = s.answers ++ [a] ∧ t.inputs = s.inputs.tail

end Sys2Proof.Machine
end

