-- ==== Sys2Proof/Certificates/Slice0/Obligations.lean ====
section
/-! DEFINITION. The statements for the provers, from the numbered rules of spec/. -/

open Sys2Proof Sys2Proof.Machine

/-! ### Encodings -/

/-- Decoding the word of a well-formed instruction gives the instruction back (30_encoding.md sections 1 and 4). -/
def Obligations.DecodeOfEncode : Prop :=
  ∀ i : Instr, i.wellFormed = true → decode (encode i) = .instr i

/-- A word that decodes is the one word of what it decodes to: no two words spell one instruction, and only well-formed
instructions have words (30_encoding.md sections 1 and 4). -/
def Obligations.EncodeOfDecode : Prop :=
  ∀ (e : Encoded) (i : Instr), decode e = .instr i → i.wellFormed = true ∧ encode i = e

/-- The words that 30_encoding.md and 95_test_vectors.md section 4 write out decode to what they stand for. -/
def Obligations.WrittenWordsDecode : Prop :=
  decodeCmd 0b00000000000000000000000000000001#32 = .instr .cvtF64 ∧
  decodeCmd 0b00000000000000000000000000000010#32 = .instr .mul64 ∧
  decodeTw 0x5400000000#40 = .instr (.rd 0x14#6 4) ∧
  decodeTw 0x6400000000#40 = .instr (.rd 0x24#6 4) ∧
  decodeTw 0x9000000001#40 = .instr (.wr 0x10#6 4 1#32) ∧
  decodeTw 0x84FFFFFFFF#40 = .instr (.wr 0x04#6 4 0xFFFFFFFF#32)

/-- R70: the whole 32-bit value selects the command. -/
def Obligations.WholeValueSelectsCommand : Prop :=
  ∀ v : Word,
    (v = 0x00000001#32 → decodeCmd v = .instr .cvtF64) ∧
    (v = 0x00000002#32 → decodeCmd v = .instr .mul64) ∧
    (v ≠ 0x00000001#32 ∧ v ≠ 0x00000002#32 → decodeCmd v = .rejected .illegalCommand) ∧
    (v.extractLsb' 4 28 ≠ 0#28 → decodeCmd v = .rejected .illegalCommand)

/-- R76: a transaction word is K * 2^38 + OFF * 2^32 + DATA; K = 01 with DATA zero is a 4-byte RD, K = 10 a 4-byte WR, and
a transaction at an offset that is not admitted is well formed and answers BUSERR. The last three clauses are the rule's
examples. -/
def Obligations.TransactionWordFields : Prop :=
  (∀ (off : Offset) (v : Word) (s : State),
    decodeTw (BitVec.ofNat 40 (1 * 2 ^ 38 + off.toNat * 2 ^ 32)) = .instr (.rd off 4) ∧
    decodeTw (BitVec.ofNat 40 (2 * 2 ^ 38 + off.toNat * 2 ^ 32 + v.toNat)) = .instr (.wr off 4 v) ∧
    decodeTw (BitVec.ofNat 40 (off.toNat * 2 ^ 32 + v.toNat)) = .rejected .kindSpellsNoTransaction ∧
    decodeTw (BitVec.ofNat 40 (3 * 2 ^ 38 + off.toNat * 2 ^ 32 + v.toNat)) = .rejected .kindSpellsNoTransaction ∧
    (v ≠ 0#32 →
      decodeTw (BitVec.ofNat 40 (1 * 2 ^ 38 + off.toNat * 2 ^ 32 + v.toNat)) = .rejected .readCarriesData) ∧
    (¬(off.toNat % 4 = 0 ∧ off.toNat ≤ 0x24) →
      exec (.rd off 4) s = .next (s.respond .busErr) ∧ exec (.wr off 4 v) s = .next (s.respond .busErr))) ∧
  decodeTw 0x9000000001#40 = .instr (.wr 0x10#6 4 1#32) ∧ decodeTw 0x5400000000#40 = .instr (.rd 0x14#6 4) ∧
  decodeTw 0x6400000000#40 = .instr (.rd 0x24#6 4)

/-- The pseudo-instructions LDA and LDB load an operand, CVT and MUL leave their command pending with its operands latched
(30_encoding.md section 4), every access answered ACK (42_host_access.md sections 1 and 2): performed from an idle block,
whatever else the host has issued behind them. -/
def Obligations.PseudoInstructionsLoadAndIssue : Prop :=
  ∀ (s : State) (a b : DWord) (rest : List HostInput), s.pend = none → s.busy = false →
    (s.inputs = hostProgram (Pseudo.lda a).expand ++ rest →
      ∃ t, runSteps 2 s = .next t ∧ t.opa = a ∧ t.opb = s.opb ∧ t.pend = none ∧ t.inputs = rest ∧
        t.answers = s.answers ++ [.ack, .ack]) ∧
    (s.inputs = hostProgram (Pseudo.ldb b).expand ++ rest →
      ∃ t, runSteps 2 s = .next t ∧ t.opb = b ∧ t.opa = s.opa ∧ t.pend = none ∧ t.inputs = rest ∧
        t.answers = s.answers ++ [.ack, .ack]) ∧
    (s.inputs = hostProgram (Pseudo.cvt a).expand ++ rest →
      ∃ t, runSteps 3 s = .next t ∧ t.pend = some ⟨1#32, a, s.opb⟩ ∧ t.inputs = rest ∧
        t.answers = s.answers ++ [.ack, .ack, .ack]) ∧
    (s.inputs = hostProgram (Pseudo.mul a b).expand ++ rest →
      ∃ t, runSteps 5 s = .next t ∧ t.pend = some ⟨2#32, a, b⟩ ∧ t.inputs = rest ∧
        t.answers = s.answers ++ [.ack, .ack, .ack, .ack, .ack])

/-! ### The step -/

/-- A step performs the decoded instruction: the host's oldest access, spelled as a transaction word, at an offset of the
window or at a byte address, while nothing is pending, or while the delay has not run out and the access is not held; the
unit's command once the delay has run out or the host has issued nothing (the turn is the model's draw, entry 2). The step
adds nothing around exec. -/
def Obligations.StepRunsDecodedInstruction : Prop :=
  (∀ (s : State) (x : HostInput) (rest : List HostInput) (i : Instr),
    s.inputs = x :: rest → Spells x i → s.pend = none ∨ (s.delay ≠ 0 ∧ s.holds i = false) →
    step s = exec i s) ∧
  (∀ (s : State) (p : Pend) (i : Instr),
    s.pend = some p → decodeCmd p.v = .instr i → s.delay = 0 ∨ s.inputs = [] → step s = exec i s)

/-- What is no access of DGCORE reaches no step of it (30_encoding.md section 5, 20_memory.md section 1): on a transaction word
with K = 00 or 11, on a read word that carries data, and on an access at a byte address outside the 64 bytes from CVT_BASE
on, the step stops under a name of its own. That it stops there is the model's choice (entries 10 and 11), and whose turn it
is the model's draw (entry 2). -/
def Obligations.StepStopsOnNoTransaction : Prop :=
  ∀ (s : State) (rest : List HostInput), s.pend = none ∨ s.delay ≠ 0 →
    (∀ w : Tw, s.inputs = .word w :: rest → w.extractLsb' 38 2 = 0b00#2 ∨ w.extractLsb' 38 2 = 0b11#2 →
      step s = .refused .kindSpellsNoTransaction) ∧
    (∀ w : Tw, s.inputs = .word w :: rest → w.extractLsb' 38 2 = 0b01#2 → w.extractLsb' 0 32 ≠ 0#32 →
      step s = .refused .readCarriesData) ∧
    (∀ (addr width : Nat) (data : Option Word), s.inputs = .mem addr width data :: rest →
      addr < Config.cvtBase ∨ Config.cvtBase + 64 ≤ addr → step s = .fault .outsideWindow)

/-- A state is final when no access of the host waits and PEND is empty (42_host_access.md section 2); then the step changes
nothing, and a state with a command pending or an access waiting is not final. That the step idles there is the model's choice
(entry 4), and so is that an access which reset left unanswered counts as waiting no longer (entry 18). -/
def Obligations.FinalStatesIdle : Prop :=
  ∀ s : State, (s.final = true ↔ s.inputs = [] ∧ s.pend = none) ∧ (s.final = true → step s = .next s)

/-- The unit's step (42_host_access.md section 2): it writes the ending of DISPATCH to the record, or the zero decimal on an
error, sets ERR, DONE and BUSY, empties PEND, and changes nothing else. That the unit has the turn once the drawn delay has
run out, and where the host has issued nothing, is the model's choice (entry 2). Completion is not enabled while PEND is empty;
that exec of CVT_F64 and of MUL64 then stops with a fault of its own name is the model's choice (entry 7). -/
def Obligations.CompletionWritesOutcome : Prop :=
  (∀ (s : State) (p : Pend), s.pend = some p → s.delay = 0 ∨ s.inputs = [] →
    ∃ t, step s = .next t ∧
      (p.v = 1#32 → t.err = (cvt p.a).code.bits ∧
        t.result = if (cvt p.a).code = .none then (cvt p.a).record else Record.zero) ∧
      (p.v = 2#32 → t.err = (mul64 p.a p.b).code.bits ∧
        t.result = if (mul64 p.a p.b).code = .none then (mul64 p.a p.b).record else Record.zero) ∧
      (p.v ≠ 1#32 ∧ p.v ≠ 2#32 → t.err = 3#3 ∧ t.result = Record.zero) ∧
      t.done = true ∧ t.busy = false ∧ t.pend = none ∧ CompletionFrame s t) ∧
  (∀ s : State, s.pend = none →
    exec .cvtF64 s = .fault .completionNotEnabled ∧ exec .mul64 s = .fault .completionNotEnabled)

/-- An admitted access other than a RD of STATUS is held while a command is pending (42_host_access.md section 2); the unit
completes, nothing being answered, and the access then proceeds against the state completion left. A RD of STATUS is never
held. That exec answers the same state for a held access, which the rule says has no step, is the model's choice (entry 5).
(That no assertion of reset stands behind the access is assumed: that case is ResetDiscardsPendingCommand's.) -/
def Obligations.HeldAccessWaitsForCompletion : Prop :=
  (∀ (s : State) (p : Pend) (x : HostInput) (rest : List HostInput) (i : Instr),
    s.busy = true → s.pend = some p → s.inputs = x :: rest → inputFetch x = .instr i →
    (∃ off : Offset, off.toNat % 4 = 0 ∧ off.toNat ≤ 0x24 ∧ off.toNat ≠ 0x14 ∧ i = .rd off 4) ∨
      (∃ (off : Offset) (v : Word), off.toNat % 4 = 0 ∧ off.toNat ≤ 0x24 ∧ i = .wr off 4 v) →
    (∀ later, rest ≠ .reset :: later) →
    exec i s = .next s ∧
    ∃ t u, step s = .next t ∧ t.pend = none ∧ t.busy = false ∧ t.result = (dispatch p).delivered ∧
      t.err = (dispatch p).code.bits ∧ CompletionFrame s t ∧
      step t = exec i t ∧ exec i t = .next u ∧ u.inputs = rest ∧ ∃ a, u.answers = s.answers ++ [a] ∧ a ≠ .busErr) ∧
  (∀ s : State, exec (.rd 0x14#6 4) s = .next (s.respond (.data s.status)))

/-- A result read issued right behind the CMD write of any command answers that command's outcome, whatever the drawn delay:
three steps, for each of the four result registers (20_memory.md section 4). -/
def Obligations.ResultReadAnswersTheCommand : Prop :=
  ∀ (s : State) (v : Word) (rest : List HostInput), s.pend = none → s.busy = false →
    (∀ later, rest ≠ .reset :: later) →
    let e := (dispatch ⟨v, s.opa, s.opb⟩).delivered
    ∀ (off : Offset) (d : Word),
      (off = 0x18#6 ∧ d = e.lo) ∨ (off = 0x1C#6 ∧ d = e.mid) ∨ (off = 0x20#6 ∧ d = e.hi) ∨
        (off = 0x24#6 ∧ d = e.flags) →
      s.inputs = .bus 0x10#6 4 (some v) :: .bus off 4 none :: rest →
      ∃ t, runSteps 3 s = .next t ∧ t.answers = s.answers ++ [.ack, .data d] ∧ t.inputs = rest ∧
        t.pend = none ∧ t.done = true ∧ t.err = (dispatch ⟨v, s.opa, s.opb⟩).code.bits

/-- Weak fairness of the unit, as the model's draw gives it (42_host_access.md section 2, entry 2): while the host's inputs are
all accesses, a pending command stays as it is, its operands included, for at most as many answered accesses as were drawn,
each step before the last answering one access, and then completes with the ending of DISPATCH, whatever the draw. -/
def Obligations.PendingCommandCompletes : Prop :=
  ∀ (s : State) (p : Pend), s.busy = true → s.pend = some p →
    (∀ x ∈ s.inputs, ∃ i, inputFetch x = .instr i) →
    ∃ k t, k ≤ s.delay ∧ runSteps k s = .next t ∧ t.pend = some p ∧ t.result = s.result ∧
      t.inputs = s.inputs.drop k ∧ t.answers.length = s.answers.length + k ∧ step t = .next (t.complete (dispatch p))

/-- A legal state's every step gives a legal state: the fields of STATUS and of the flags word stay as 10_state.md R24 and R26
say, BUSY tells PEND, and an error leaves no record (10_state.md sections 3 to 5). -/
def Obligations.StepKeepsLegal : Prop :=
  ∀ s t : State, s.Legal → step s = .next t → t.Legal

/-- The state after reset is legal (10_state.md sections 3 to 5). -/
def Obligations.ResetIsLegal : Prop := State.reset.Legal

/-! ### Host accesses -/

/-- R160: RD answers the register at its offset, CMD reading 0; it is held while a command is pending unless it reads STATUS;
an access that is not admitted answers BUSERR before that is asked. That exec answers the same state for a held read, which has
no step by R167, is the model's choice (entry 5). -/
def Obligations.ReadAnswersRegister : Prop :=
  ∀ s : State,
    (s.busy = false →
      exec (.rd 0x00#6 4) s = .next (s.respond (.data s.opaLo)) ∧
      exec (.rd 0x04#6 4) s = .next (s.respond (.data s.opaHi)) ∧
      exec (.rd 0x08#6 4) s = .next (s.respond (.data s.opbLo)) ∧
      exec (.rd 0x0C#6 4) s = .next (s.respond (.data s.opbHi)) ∧
      exec (.rd 0x10#6 4) s = .next (s.respond (.data 0#32)) ∧
      exec (.rd 0x18#6 4) s = .next (s.respond (.data s.resLo)) ∧
      exec (.rd 0x1C#6 4) s = .next (s.respond (.data s.resMid)) ∧
      exec (.rd 0x20#6 4) s = .next (s.respond (.data s.resHi)) ∧
      exec (.rd 0x24#6 4) s = .next (s.respond (.data s.resFlags))) ∧
    exec (.rd 0x14#6 4) s = .next (s.respond (.data s.status)) ∧
    (s.busy = true → ∀ off : Offset, off.toNat % 4 = 0 → off.toNat ≤ 0x24 → off.toNat ≠ 0x14 →
      exec (.rd off 4) s = .next s) ∧
    (∀ (off : Offset) (width : Nat), ¬(width = 4 ∧ off.toNat % 4 = 0 ∧ off.toNat ≤ 0x24) →
      exec (.rd off width) s = .next (s.respond .busErr))

/-- R161: WR writes the register at its offset, accepts a command at CMD, is ignored at the read-only registers, and answers
ACK; it is held while a command is pending; an access that is not admitted answers BUSERR before that is asked. That exec
answers the same state for a held write, which has no step by R167, is the model's choice (entry 5). -/
def Obligations.WriteReachesRegister : Prop :=
  ∀ (s : State) (v : Word),
    (s.busy = false →
      exec (.wr 0x00#6 4 v) s = .next { s.respond .ack with opaLo := v } ∧
      exec (.wr 0x04#6 4 v) s = .next { s.respond .ack with opaHi := v } ∧
      exec (.wr 0x08#6 4 v) s = .next { s.respond .ack with opbLo := v } ∧
      exec (.wr 0x0C#6 4 v) s = .next { s.respond .ack with opbHi := v } ∧
      exec (.wr 0x10#6 4 v) s = .next ((s.respond .ack).accept v) ∧
      exec (.wr 0x14#6 4 v) s = .next (s.respond .ack) ∧
      exec (.wr 0x18#6 4 v) s = .next (s.respond .ack) ∧
      exec (.wr 0x1C#6 4 v) s = .next (s.respond .ack) ∧
      exec (.wr 0x20#6 4 v) s = .next (s.respond .ack) ∧
      exec (.wr 0x24#6 4 v) s = .next (s.respond .ack)) ∧
    (s.busy = true → ∀ off : Offset, off.toNat % 4 = 0 → off.toNat ≤ 0x24 → exec (.wr off 4 v) s = .next s) ∧
    (∀ (off : Offset) (width : Nat), ¬(width = 4 ∧ off.toNat % 4 = 0 ∧ off.toNat ≤ 0x24) →
      exec (.wr off width v) s = .next (s.respond .busErr))

/-- Exactly the accesses that are not admitted answer BUSERR (42_host_access.md section 1); such an access changes no register,
does not touch PEND or STATUS, and is not held, whether or not a command is pending (60_exceptions.md section 1). That exec
answers a next state, the same one, for an admitted access that is held is the model's choice (entry 5). -/
def Obligations.BusErrorChangesNothing : Prop :=
  ∀ (s : State) (off : Offset) (width : Nat) (v : Word) (i : Instr), i = .rd off width ∨ i = .wr off width v →
    (¬(width = 4 ∧ off.toNat % 4 = 0 ∧ off.toNat ≤ 0x24) →
      ∃ t, exec i s = .next t ∧ Answered s t .busErr ∧ SameRegisters s t) ∧
    (width = 4 ∧ off.toNat % 4 = 0 ∧ off.toNat ≤ 0x24 →
      ∃ t, exec i s = .next t ∧ t.answers ≠ s.answers ++ [.busErr])

/-- A read changes no register, and two reads of one register with no write or completion between them answer the same
value (20_memory.md section 3). Every read that is not held is answered, whatever its offset and width; one that is held waits,
and that exec answers the same state for it is the model's choice (entry 5). -/
def Obligations.ReadsChangeNothing : Prop :=
  ∀ (s : State) (off : Offset) (width : Nat), ∃ t u, exec (.rd off width) s = .next t ∧ SameRegisters s t ∧
    exec (.rd off width) t = .next u ∧ SameRegisters s u ∧
    if (admitted off width && s.holdsRead off) = true then t = s ∧ u = s
    else ∃ a, Answered s t a ∧ Answered t u a

/-- R58: what a write changes. An operand register is replaced and nothing else; a write to CMD accepts a command; a write to a
read-only register answers ACK and changes nothing. -/
def Obligations.WritesChangeOneRegister : Prop :=
  ∀ (s : State) (v : Word), s.busy = false →
    (∃ t, exec (.wr 0x00#6 4 v) s = .next t ∧ t.opaLo = v ∧ Answered s t .ack ∧
      SameRegisters { s with opaLo := v } t) ∧
    (∃ t, exec (.wr 0x04#6 4 v) s = .next t ∧ t.opaHi = v ∧ Answered s t .ack ∧
      SameRegisters { s with opaHi := v } t) ∧
    (∃ t, exec (.wr 0x08#6 4 v) s = .next t ∧ t.opbLo = v ∧ Answered s t .ack ∧
      SameRegisters { s with opbLo := v } t) ∧
    (∃ t, exec (.wr 0x0C#6 4 v) s = .next t ∧ t.opbHi = v ∧ Answered s t .ack ∧
      SameRegisters { s with opbHi := v } t) ∧
    (∀ off : Offset, off ∈ [0x14#6, 0x18#6, 0x1C#6, 0x20#6, 0x24#6] →
      ∃ t, exec (.wr off 4 v) s = .next t ∧ Answered s t .ack ∧ SameRegisters s t) ∧
    (∃ t, exec (.wr 0x10#6 4 v) s = .next t ∧ Answered s t .ack ∧ t.pend = some ⟨v, s.opa, s.opb⟩ ∧
      t.busy = true ∧ t.opa = s.opa ∧ t.opb = s.opb ∧ t.result = s.result)

/-- R21 and R22: the two halves make the operand, all 32 bits of each half are writable and read back as written while no
command is pending, and no command writes them. -/
def Obligations.OperandsReadBack : Prop :=
  ∀ s : State,
    s.opa.toNat = s.opaHi.toNat * 2 ^ 32 + s.opaLo.toNat ∧ s.opb.toNat = s.opbHi.toNat * 2 ^ 32 + s.opbLo.toNat ∧
    (s.busy = false → ∀ (off : Offset) (v : Word), off ∈ [0x00#6, 0x04#6, 0x08#6, 0x0C#6] →
      ∃ t u, exec (.wr off 4 v) s = .next t ∧ exec (.rd off 4) t = .next u ∧ Answered t u (.data v)) ∧
    (∀ t, exec .cvtF64 s = .next t ∨ exec .mul64 s = .next t ∨ s.completeIllegal = t →
      t.opaLo = s.opaLo ∧ t.opaHi = s.opaHi ∧ t.opbLo = s.opbLo ∧ t.opbHi = s.opbHi)

/-- R164: a write of any value to CMD while PEND is empty latches the value and the operands, sets BUSY and LASTOP, clears DONE
and ERR, and keeps the record and the operands. -/
def Obligations.AcceptanceLatchesOperands : Prop :=
  ∀ (s : State) (v : Word), s.pend = none → s.busy = false →
    ∃ t, exec (.wr 0x10#6 4 v) s = .next t ∧
      t.pend = some ⟨v, s.opaHi ++ s.opaLo, s.opbHi ++ s.opbLo⟩ ∧
      t.busy = true ∧ t.done = false ∧ t.err = 0#3 ∧ t.lastop = v.extractLsb' 0 4 ∧
      statusReserved t.status = statusReserved s.status ∧ t.result = s.result ∧
      t.opaLo = s.opaLo ∧ t.opaHi = s.opaHi ∧ t.opbLo = s.opbLo ∧ t.opbHi = s.opbHi ∧
      Answered s t .ack

/-- R75: STATUS with its reserved bits 0 is BUSY + 2*DONE + ERR * 2^8 + LASTOP * 2^16. -/
def Obligations.StatusWordEncoding : Prop :=
  ∀ s : State, statusReserved s.status = 0#32 →
    s.status.toNat = s.busy.toNat + 2 * s.done.toNat + s.err.toNat * 2 ^ 8 + s.lastop.toNat * 2 ^ 16

/-- R53: the 16 bytes at offsets 0x18 to 0x27 are the little-endian image of the record. -/
def Obligations.RecordByteImage : Prop :=
  ∀ (s : State) (i : Nat), i < 16 →
    s.windowByte (0x18 + i) = some ((s.resFlags ++ s.resHi ++ s.resMid ++ s.resLo).extractLsb' (8 * i) 8)

/-- The 16 bytes at offsets 0x00 to 0x0F are the little-endian images of OPA and OPB (20_memory.md section 2), and the
reserved offsets hold no byte. -/
def Obligations.OperandByteImage : Prop :=
  ∀ (s : State) (i : Nat),
    (i < 8 → s.windowByte i = some (s.opa.extractLsb' (8 * i) 8) ∧
      s.windowByte (8 + i) = some (s.opb.extractLsb' (8 * i) 8)) ∧
    (0x28 ≤ i → s.windowByte i = none)

/-! ### MUL64 and the multiplies -/

/-- R141: WIDE gives the exact 128-bit product, and ovf exactly when its top 32 bits are not zero, which is when it is 2^96 or
more; then MUL64 delivers no part of it. -/
def Obligations.WideProductExact : Prop :=
  ∀ a b : DWord,
    (wide a b).1.toNat = a.toNat * b.toNat ∧
    (wide a b).2 = ((wide a b).1.extractLsb' 96 32 != 0#32) ∧
    ((wide a b).2 = true ↔ 2 ^ 96 ≤ a.toNat * b.toNat) ∧
    ((wide a b).2 = true → mul64 a b = fail .overflow)

/-- R142: the four partial products of the halves are exact 64-bit values, and accumulated they are the exact product. -/
def Obligations.WideDatapathExact : Prop :=
  ∀ a b : DWord,
    wideDatapath a b = (wide a b).1 ∧
    (wideDatapath a b).toNat =
      (a.toNat % 2 ^ 32) * (b.toNat % 2 ^ 32) +
      ((a.toNat % 2 ^ 32) * (b.toNat / 2 ^ 32) + (a.toNat / 2 ^ 32) * (b.toNat % 2 ^ 32)) * 2 ^ 32 +
      (a.toNat / 2 ^ 32) * (b.toNat / 2 ^ 32) * 2 ^ 64

/-- R144: MUL64x32 gives the exact product, which always fits 96 bits, and built from halves it is the same. -/
def Obligations.NarrowProductExact : Prop :=
  ∀ (m : DWord) (k : Word),
    (mul64x32 m k).toNat = m.toNat * k.toNat ∧ m.toNat * k.toNat < 2 ^ 96 ∧
    (mul64x32 m k).toNat = (m.toNat % 2 ^ 32) * k.toNat + (m.toNat / 2 ^ 32) * k.toNat * 2 ^ 32

/-- R145: the laws of WIDE and MUL64. -/
def Obligations.WideLaws : Prop :=
  ∀ a b : DWord,
    wide a b = wide b a ∧ mul64 a b = mul64 b a ∧
    wide 0#64 b = (0#128, false) ∧ wide 1#64 b = (b.setWidth 128, false) ∧
    ((wide a b).2 = true ↔ 2 ^ 96 ≤ a.toNat * b.toNat) ∧
    (b ≠ 0#64 → ((wide a b).2 = true ↔ (2 ^ 96 + b.toNat - 1) / b.toNat ≤ a.toNat)) ∧
    (a.toNat < 2 ^ 32 ∨ b.toNat < 2 ^ 32 → (wide a b).2 = false)

/-- R143, and MUL64's effect on the whole state: the pending MUL64 completes; a product below 2^96 is delivered whole in
RES_LO, RES_MID and RES_HI with RES_FLAGS 0, and is the value of the record; any other gives OVERFLOW and the zero decimal. -/
def Obligations.MultiplyCompletes : Prop :=
  ∀ (s : State) (p : Pend), s.pend = some p →
    ∃ t, exec .mul64 s = .next t ∧
      (p.a.toNat * p.b.toNat < 2 ^ 96 →
        t.resLo.toNat = p.a.toNat * p.b.toNat % 2 ^ 32 ∧
        t.resMid.toNat = p.a.toNat * p.b.toNat / 2 ^ 32 % 2 ^ 32 ∧
        t.resHi.toNat = p.a.toNat * p.b.toNat / 2 ^ 64 ∧ t.resFlags = 0#32 ∧ t.err = 0#3 ∧
        t.result.value = (p.a.toNat : ℚ) * p.b.toNat) ∧
      (2 ^ 96 ≤ p.a.toNat * p.b.toNat → t.err = 1#3 ∧ t.result = Record.zero) ∧
      t.done = true ∧ t.busy = false ∧ t.pend = none ∧ CompletionFrame s t

/-! ### CVT_F64 -/

/-- CVT_F64's effect on the whole state: the pending CVT_F64 completes with the code and the record of CVT, the zero decimal on
an error, and changes nothing else (40_convert.md section 1, 42_host_access.md section 2). -/
def Obligations.ConvertCompletes : Prop :=
  ∀ (s : State) (p : Pend), s.pend = some p →
    ∃ t, exec .cvtF64 s = .next t ∧ t.err = (cvt p.a).code.bits ∧
      (t.err = 0#3 → t.result = (cvt p.a).record) ∧ (t.err ≠ 0#3 → t.result = Record.zero) ∧
      t.done = true ∧ t.busy = false ∧ t.pend = none ∧ CompletionFrame s t

/-- R117: the outcome of CVT_F64 by the exponent field of its input, for every input. -/
def Obligations.OutcomeClasses : Prop :=
  ∀ (s : State) (p : Pend), s.pend = some p →
    ∃ t, exec .cvtF64 s = .next t ∧
      (expField p.a ≤ 927 → t.err = 0#3 ∧ t.result = Record.zero) ∧
      (expField p.a = 928 → t.err = 0#3 ∧
        ((scaleMagnitude (magnitude (abs64 p.a)) (-94)).d ≤ half → t.result = Record.zero) ∧
        (half < (scaleMagnitude (magnitude (abs64 p.a)) (-94)).d →
          t.result.mantissa = 1#96 ∧ t.result.scale = 28)) ∧
      (929 ≤ expField p.a → expField p.a ≤ 1118 → t.err = 0#3 ∧ t.result.mantissa ≠ 0#96) ∧
      (1119 ≤ expField p.a → expField p.a ≤ 2046 → t.err = 1#3 ∧ t.result = Record.zero) ∧
      (expField p.a = 2047 → t.err = 2#3 ∧ t.result = Record.zero)

/-- The ranges of the converter's working values (40_convert.md section 3): the working scale is at most 28, the scaled value
has 15 integer digits unless the scale was clamped, the rounded mantissa is at most 10^15, the values are normal, the
widening never overflows, and the largest mantissa is 792281625142643 * 10^14. -/
def Obligations.ConverterRanges : Prop :=
  (∀ a : DWord, 928 ≤ expField a → expField a ≤ 1118 →
    let x := scaleMagnitude (magnitude (abs64 a)) (cvtExp a)
    (-14 ≤ x.power ∧ x.power ≤ 28) ∧
    (x.power < 28 → toF64 (10 ^ 14) ≤ x.d ∧ x.d < toF64 (10 ^ 15)) ∧
    (x.power = 28 → 0 < x.d ∧ x.d < toF64 (10 ^ 15)) ∧
    IsF64 x.d ∧ 2 ^ 52 ≤ x.d ∧
    roundMantissa x.d ≤ 10 ^ 15 ∧
    (x.power < 0 → ∃ m, widen (roundMantissa x.d) x.power = some m ∧
      m.toNat = roundMantissa x.d * 10 ^ (-x.power).toNat) ∧
    (cvt a).record.mantissa.toNat ≤ 792281625142643 * 10 ^ 14 ∧ (cvt a).record.scale ≤ 28) ∧
  (cvt 0x45EFFFFFFFFFFFFF#64).record.mantissa.toNat = 792281625142643 * 10 ^ 14

/-- R118: the outcome of CVT_F64 is a function of the latched operand A alone, and it writes only RES_*, ERR, DONE and BUSY (and
empties PEND). -/
def Obligations.OutcomeDependsOnOperandAlone : Prop :=
  ∀ (s₁ s₂ : State) (p₁ p₂ : Pend), s₁.pend = some p₁ → s₂.pend = some p₂ → p₁.a = p₂.a →
    ∃ t₁ t₂, exec .cvtF64 s₁ = .next t₁ ∧ exec .cvtF64 s₂ = .next t₂ ∧
      t₁.result = t₂.result ∧ t₁.err = t₂.err ∧ t₁.done = t₂.done ∧ t₁.busy = t₂.busy ∧
      CompletionFrame s₁ t₁ ∧ CompletionFrame s₂ t₂

/-- R182: INVALID_INPUT is CVT_F64's alone, exactly for the inputs with E = 2047, whatever their sign and fraction; MUL64 has no
invalid operand. -/
def Obligations.InvalidInputExactly : Prop :=
  ∀ a b : DWord,
    ((cvt a).code = .invalidInput ↔ expField a = 2047) ∧ (mul64 a b).code ≠ .invalidInput ∧
    (expField a = 2047 → cvt a = fail .invalidInput)

/-- R185: underflow is not an error: an input with exp < -94, and one whose rounded mantissa is 0, completes with NONE and the
zero decimal. -/
def Obligations.UnderflowIsNoError : Prop :=
  ∀ (s : State) (p : Pend), s.pend = some p →
    cvtExp p.a < -94 ∨
      (-94 ≤ cvtExp p.a ∧ cvtExp p.a ≤ 96 ∧
        roundMantissa (scaleMagnitude (magnitude (abs64 p.a)) (cvtExp p.a)).d = 0) →
    ∃ t, exec .cvtF64 s = .next t ∧ t.err = 0#3 ∧ t.result = Record.zero ∧ t.done = true

/-- R103 and R106: exp = E - 1022, and it is the exponent with 2^(exp-1) <= |x| < 2^exp; the magnitude is the value of the
pattern with its sign cleared, in [2^-95, 2^96) where the conversion goes on. -/
def Obligations.ExponentBoundsMagnitude : Prop :=
  ∀ a : DWord, expField a ≤ 2046 →
    cvtExp a = (expField a : ℤ) - 1022 ∧ -1022 ≤ cvtExp a ∧ cvtExp a ≤ 1024 ∧
    f64val (abs64 a) = .finite (magnitude (abs64 a)) ∧ magnitude (abs64 a) = magnitude a ∧
    (1 ≤ expField a → magnitude a = (2 ^ 52 + fracField a) * 2 ^ (expField a - 1) ∧
      2 ^ (cvtExp a - 1 + 1074).toNat ≤ magnitude a ∧ magnitude a < 2 ^ (cvtExp a + 1074).toNat) ∧
    (-94 ≤ cvtExp a → cvtExp a ≤ 96 →
      2 ^ (1074 - 95) ≤ magnitude (abs64 a) ∧ magnitude (abs64 a) < 2 ^ (1074 + 96))

/-- R107: the scale estimate, a floor, over the range it is used in. -/
def Obligations.ScaleEstimateRange : Prop :=
  ∀ exp : ℤ, -94 ≤ exp → exp ≤ 96 →
    scaleEstimate exp = 14 - Int.fdiv (exp * 19728) 65536 ∧
    -14 ≤ scaleEstimate exp ∧ scaleEstimate exp ≤ 43 ∧
    (scaleEstimate exp = 43 ↔ exp = -94) ∧ (scaleEstimate exp = -14 ↔ 94 ≤ exp) ∧
    (scaleEstimate exp = -1 ↔ 50 ≤ exp ∧ exp ≤ 53) ∧ (28 < scaleEstimate exp ↔ exp ≤ -47)

/-- Scaling (40_convert.md section 2): where CVT converts, its record is assembled from the scaled magnitude, which comes of the
estimate power0 in two steps. First the value is multiplied by T_D[min(power0, 28)] where power0 is at least 0, kept with
scale 0 where power0 is -1 and the value is below 10^15, and divided by T_D[-power0], an index from 1 to 14, else. Then a result
below 10^14 with a scale below 28 is multiplied by 10 once, the scale going up by 1, and any other is kept. -/
def Obligations.ScalingFollowsEstimate : Prop :=
  ∀ a : DWord, 928 ≤ expField a → expField a ≤ 1118 →
    let d := magnitude (abs64 a)
    let power0 := scaleEstimate (cvtExp a)
    let x := scaleMagnitude d (cvtExp a)
    cvt a = assemble (signBit a) x ∧
    ∃ (d1 : Nat) (power : ℤ),
      (0 ≤ power0 → power = min power0 28 ∧ d1 = fmul d (powD power.toNat)) ∧
      (power0 = -1 → d < toF64 (10 ^ 15) → power = 0 ∧ d1 = d) ∧
      (power0 < -1 ∨ power0 = -1 ∧ toF64 (10 ^ 15) ≤ d →
        power = power0 ∧ d1 = fdiv d (powD (-power0).toNat) ∧ 1 ≤ (-power0).toNat ∧ (-power0).toNat ≤ 14) ∧
      (d1 < toF64 (10 ^ 14) ∧ power < 28 → x.d = fmul d1 (toF64 10) ∧ x.power = power + 1) ∧
      (¬(d1 < toF64 (10 ^ 14) ∧ power < 28) → x.d = d1 ∧ x.power = power)

/-- R111: the rounded mantissa is the integer nearest to the scaled value, a tie going to the even one; the remainder it
inspects is exact. -/
def Obligations.MantissaRoundsHalfToEven : Prop :=
  ∀ d : Nat, IsF64 d → d < toF64 (10 ^ 15) →
    fsub d (toF64 (trunc d)) = d - trunc d * unit ∧ trunc d * unit ≤ d ∧ d < (trunc d + 1) * unit ∧
    roundMantissa d ≤ 10 ^ 15 ∧
    2 * |(roundMantissa d : ℤ) * unit - d| ≤ unit ∧
    (2 * |(roundMantissa d : ℤ) * unit - d| = unit → roundMantissa d % 2 = 0)

/-- R113: widening multiplies the mantissa by 10^p exactly, with scale 0; below p = 10 it never overflows, from 10 on it ends in
OVERFLOW exactly when the product does not fit 96 bits. -/
def Obligations.WidenMultipliesExactly : Prop :=
  ∀ (sign : Bool) (x : Scaled) (p : Nat), 1 ≤ p → p ≤ 14 → x.power = -(p : ℤ) →
    roundMantissa x.d ≠ 0 → roundMantissa x.d < 2 ^ 64 →
    (p < 10 ∨ roundMantissa x.d * 10 ^ p < 2 ^ 96 →
      assemble sign x = ok (pack sign 0 (roundMantissa x.d * 10 ^ p)) ∧ roundMantissa x.d * 10 ^ p < 2 ^ 96) ∧
    (10 ≤ p ∧ 2 ^ 96 ≤ roundMantissa x.d * 10 ^ p → assemble sign x = fail .overflow)

/-- Factoring keeps the value and takes off every zero it may (40_convert.md section 2): each k of 8, 4, 2, 1, in this order and
from a headroom of min(power, 14), comes off exactly when it is at most the headroom and 10^k divides; what comes off the
mantissa comes off the scale, which never goes below 0; and where headroom is left the last digit is not 0. With a working scale
of at least 0 the record holds what factoring leaves, and where the mantissa is 0 it is the zero decimal at every scale. -/
def Obligations.FactoringKeepsValue : Prop :=
  (∀ (mant : Nat) (power : ℤ), 0 ≤ power →
    0 ≤ (factor mant power).power ∧ (factor mant power).power ≤ power ∧
    power - (factor mant power).power ≤ min power 14 ∧
    (factor mant power).mant * 10 ^ (power - (factor mant power).power).toNat = mant ∧
    (power - (factor mant power).power < min power 14 → (factor mant power).mant % 10 ≠ 0) ∧
    factor mant power = factorStep 1 (factorStep 2 (factorStep 4 (factorStep 8 ⟨mant, power, min power 14⟩)))) ∧
  (∀ (k : Nat) (f : Factoring), k ∈ [8, 4, 2, 1] →
    ((k : ℤ) ≤ f.lmax ∧ 10 ^ k ∣ f.mant → factorStep k f = ⟨f.mant / 10 ^ k, f.power - k, f.lmax - k⟩) ∧
    (¬((k : ℤ) ≤ f.lmax ∧ 10 ^ k ∣ f.mant) → factorStep k f = f)) ∧
  (∀ (sign : Bool) (x : Scaled),
    (0 ≤ x.power → roundMantissa x.d ≠ 0 →
      assemble sign x =
        ok (pack sign (factor (roundMantissa x.d) x.power).power.toNat (factor (roundMantissa x.d) x.power).mant)) ∧
    (roundMantissa x.d = 0 → assemble sign x = ok .zero))

/-- R115: the layout of the assembled record, and the sign's only effect: a negative input differs from its positive twin only in
RES_FLAGS bit 31, which is the input's sign bit, and not at all where the mantissa is 0: both give the zero decimal. -/
def Obligations.SignOnlyInFlags : Prop :=
  (∀ (sign : Bool) (scale m : Nat), scale < 256 → m < 2 ^ 96 →
    (pack sign scale m).lo.toNat = m % 2 ^ 32 ∧ (pack sign scale m).mid.toNat = m / 2 ^ 32 % 2 ^ 32 ∧
    (pack sign scale m).hi.toNat = m / 2 ^ 64 ∧
    (pack sign scale m).flags.toNat = sign.toNat * 2 ^ 31 + scale * 2 ^ 16 ∧
    (pack sign scale m).mantissa.toNat = m ∧ (pack sign scale m).scale = scale ∧
    (pack sign scale m).sign = sign) ∧
  pack false 0 0 = Record.zero ∧
  (∀ a : DWord,
    let plus := cvt (abs64 a)
    let minus := cvt (abs64 a ^^^ 0x8000000000000000#64)
    minus.code = plus.code ∧ minus.record.mantissa = plus.record.mantissa ∧
    (plus.record.mantissa ≠ 0#96 → plus.record.sign = false ∧ minus.record.sign = true ∧
      minus.record.flags = plus.record.flags ^^^ 0x80000000#32) ∧
    (plus.record.mantissa = 0#96 → plus.record = Record.zero ∧ minus.record = Record.zero)) ∧
  (∀ a : DWord, (cvt a).record.mantissa ≠ 0#96 →
    (cvt a).record.flags.getLsbD 31 = a.getLsbD 63 ∧ (cvt a).record.sign = a.getLsbD 63)

/-! ### Binary64 values -/

/-- R10: the fields of a pattern, its value (a real number in multiples of 2^-1074, entry 9; an infinity; a NaN), and abs64,
which clears the sign. -/
def Obligations.PatternValue : Prop :=
  ∀ a : DWord,
    signBit a = a.getLsbD 63 ∧ expField a = a.toNat / 2 ^ 52 % 2 ^ 11 ∧ fracField a = a.toNat % 2 ^ 52 ∧
    (0 < expField a → expField a < 2047 →
      f64val a = .finite ((-1) ^ (signBit a).toNat * ((2 ^ 52 + fracField a) * 2 ^ (expField a - 1)))) ∧
    (expField a = 0 → f64val a = .finite ((-1) ^ (signBit a).toNat * fracField a)) ∧
    (expField a = 2047 → fracField a = 0 → f64val a = .infinity (signBit a)) ∧
    (expField a = 2047 → fracField a ≠ 0 → f64val a = .nan) ∧
    (abs64 a).toNat = a.toNat % 2 ^ 63 ∧
    (∀ x : ℤ, f64val a = .finite x → f64val (abs64 a) = .finite |x|) ∧
    (∀ negative, f64val a = .infinity negative → f64val (abs64 a) = .infinity false)

/-! ### Rounding and the tables -/

/-- roundTiesToEven is what `rne` computes, and the converter's three operations are the correctly rounded exact results
(00_scope.md section 4). The binary64 values have no upper exponent here (entry 9). -/
def Obligations.RoundingIsNearestTiesToEven : Prop :=
  (∀ num den : Nat, 0 < den → NearestTiesToEven (rne num den) num den) ∧
  (∀ x y : Nat, NearestTiesToEven (fmul x y) (x * y) unit) ∧
  (∀ x y : Nat, 0 < y → NearestTiesToEven (fdiv x y) (x * unit) y) ∧
  (∀ x y : Nat, y ≤ x → NearestTiesToEven (fsub x y) (x - y) 1)

/-- A binary64 value rounds to itself, and rounding keeps order: the properties the ranges of the converter rest on
(00_scope.md section 4). That the values have no upper exponent here is the model's choice (entry 9). -/
def Obligations.RoundingExactAndMonotone : Prop :=
  (∀ x : Nat, IsF64 x → rne x 1 = x) ∧
  (∀ num den num' den' : Nat, 0 < den → 0 < den' → num * den' ≤ num' * den → rne num den ≤ rne num' den') ∧
  (∀ n : Nat, n < 2 ^ 53 → IsF64 (toF64 n))

/-- R29: T_D has 81 entries, `T_D[k] = rne(10^k)`, exact up to 22, with the bit patterns the rule lists. -/
def Obligations.DoubleTable : Prop :=
  tableD.length = 81 ∧ (∀ k < 81, powD k = rne (10 ^ k * unit) 1) ∧ (∀ k < 23, powD k = 10 ^ k * unit) ∧
  [0, 1, 14, 15, 20, 21, 22, 23, 24, 25, 26, 27, 28].map powD =
    [0x3FF0000000000000#64, 0x4024000000000000#64, 0x42D6BCC41E900000#64, 0x430C6BF526340000#64,
     0x4415AF1D78B58C40#64, 0x444B1AE4D6E2EF50#64, 0x4480F0CF064DD592#64, 0x44B52D02C7E14AF6#64,
     0x44EA784379D99DB4#64, 0x45208B2A2C280291#64, 0x4554ADF4B7320335#64, 0x4589D971E4FE8402#64,
     0x45C027E72F1F1281#64].map magnitude ∧
  [23, 24, 25, 26, 27, 28].map powD =
    [99999999999999991611392, 999999999999999983222784, 10000000000000000905969664,
     100000000000000004764729344, 1000000000000000013287555072, 9999999999999999583119736832].map toF64

/-- R30 and R31: the integer tables hold the powers of ten, none wrapped. -/
def Obligations.IntegerTables : Prop :=
  tableU64.length = 20 ∧ (∀ k < 20, (powU64 k).toNat = 10 ^ k) ∧
  tableU32.length = 10 ∧ (∀ k < 10, (powU32 k).toNat = 10 ^ k)

/-! ### Errors and reset -/

/-- A CMD value other than 1 and 2 is accepted, and completes with ILLEGAL_CMD, the zero decimal and DONE; the record stays
until then, and no operand is read or changed (60_exceptions.md sections 1
and 3). The write, a bus access, is the host's only input;
that the very next step then is the completion is the model's choice (entry 2). -/
def Obligations.IllegalCommandCompletes : Prop :=
  ∀ (s : State) (v : Word), v ≠ 1#32 → v ≠ 2#32 → s.pend = none → s.busy = false →
    s.inputs = [.bus 0x10#6 4 (some v)] →
    ∃ t u, step s = .next t ∧ t.busy = true ∧ t.lastop = v.extractLsb' 0 4 ∧ t.result = s.result ∧
      step t = .next u ∧ u.err = 3#3 ∧ u.result = Record.zero ∧ u.done = true ∧ u.busy = false ∧
      u.lastop = v.extractLsb' 0 4 ∧ u.pend = none ∧ u.opa = s.opa ∧ u.opb = s.opb

/-- R187: an error leaves the zero decimal in RES_* and its code in ERR, keeps the operands, and does not stop the block: ERR
holds through every access that is no acceptance, and the next CMD write is accepted as usual. -/
def Obligations.ErrorLeavesNoPartialResult : Prop :=
  ∀ (s : State) (e : Ending), e.code ≠ .none →
    let t := s.complete e
    t.result = Record.zero ∧ t.err = e.code.bits ∧ t.err ≠ 0#3 ∧ t.opa = s.opa ∧ t.opb = s.opb ∧
    (∀ (off : Offset) (width : Nat) (v : Word),
      (∃ u, exec (.rd off width) t = .next u ∧ u.err = t.err ∧ u.result = Record.zero) ∧
      (off.toNat ≠ 0x10 ∨ width ≠ 4 →
        ∃ u, exec (.wr off width v) t = .next u ∧ u.err = t.err ∧ u.result = Record.zero) ∧
      ∃ u, exec (.wr 0x10#6 4 v) t = .next u ∧ u.pend = some ⟨v, s.opa, s.opb⟩ ∧ u.err = 0#3 ∧ u.busy = true)

/-- What reset leaves: every register 0 and PEND empty (70_reset_and_hazards.md section 1). The last three clauses are the
model's own fields, its choice (entry 1). -/
def Obligations.ResetValues : Prop :=
  [State.reset.opaLo, State.reset.opaHi, State.reset.opbLo, State.reset.opbHi, State.reset.status, State.reset.resLo,
    State.reset.resMid, State.reset.resHi, State.reset.resFlags] = List.replicate 9 0x00000000#32 ∧
  State.reset.pend = none ∧ State.reset.busy = false ∧ State.reset.done = false ∧ State.reset.err = 0#3 ∧
  State.reset.lastop = 0#4 ∧ State.reset.result = Record.zero ∧
  State.reset.inputs = [] ∧ State.reset.answers = [] ∧ State.reset.delay = 0

/-- Reset asserted (70_reset_and_hazards.md section 1) takes every register to its reset value; a pending command is discarded
and its outcome never written; an access in progress or held at that moment is not answered and leaves no effect. That the
assertion comes before the completion where the drawn delay has not run out is the model's choice (entries 2 and 6), and so is
that an access in progress or held is gone from the host's inputs together with the assertion, what is behind it staying
(entry 6). -/
def Obligations.ResetDiscardsPendingCommand : Prop :=
  ∀ (s : State) (rest : List HostInput),
    (s.inputs = .reset :: rest ∧ (s.pend = none ∨ s.delay ≠ 0)) ∨
      (∃ off width data, s.inputs = .resetInAccess off width data :: rest ∧ (s.pend = none ∨ s.delay ≠ 0)) ∨
      (∃ x i p, s.inputs = x :: .reset :: rest ∧ s.pend = some p ∧ s.delay ≠ 0 ∧ inputFetch x = .instr i ∧
        s.holds i = true) →
    ∃ t, step s = .next t ∧ SameRegisters State.reset t ∧ t.inputs = rest ∧ t.answers = s.answers

/-- A command issued right after reset reads the reset operands: CVT_F64 gives the zero decimal and MUL64 gives 0, both with
ERR = NONE, and every register can be read at once (70_reset_and_hazards.md section 1). The CMD write is the host's only input;
that the very next step then is the completion is the model's choice (entry 2). -/
def Obligations.CommandsRightAfterReset : Prop :=
  (∀ v : Word, v = 1#32 ∨ v = 2#32 →
    ∃ t, runSteps 2 { State.reset with inputs := [.bus 0x10#6 4 (some v)] } = .next t ∧
      t.result = Record.zero ∧ t.err = 0#3 ∧ t.done = true ∧ t.lastop = v.extractLsb' 0 4) ∧
  (∀ r : Reg, exec (.rd r.offset 4) State.reset = .next (State.reset.respond (.data 0#32)))
end

