-- ==== Sys2Proof/Laws/Binary64.lean ====
section
/-! SUPPORT. Small facts about the fields of a pattern, rounding to an integer, and the spacing of binary64 values, which
proofs about the converter cite instead of unfolding those. The big constants stay folded: cite `unit_pos`. -/

namespace Sys2Proof.Machine

theorem unit_pos : 0 < unit := Nat.pow_pos (by norm_num)

theorem unit_eq_two_half : unit = 2 * half := by
  unfold unit half
  rw [← pow_succ']

theorem expField_lt (a : DWord) : expField a < 2 ^ 11 := (a.extractLsb' 52 11).isLt

theorem fracField_lt (a : DWord) : fracField a < 2 ^ 52 := (a.extractLsb' 0 52).isLt

@[simp] theorem expField_abs64 (a : DWord) : expField (abs64 a) = expField a := by
  unfold expField abs64
  congr 1
  apply BitVec.eq_of_getLsbD_eq
  intro i hi
  simp only [BitVec.getLsbD_append, BitVec.getLsbD_extractLsb']
  grind

@[simp] theorem fracField_abs64 (a : DWord) : fracField (abs64 a) = fracField a := by
  unfold fracField abs64
  congr 1
  apply BitVec.eq_of_getLsbD_eq
  intro i hi
  simp only [BitVec.getLsbD_append, BitVec.getLsbD_extractLsb']
  grind

@[simp] theorem signBit_abs64 (a : DWord) : signBit (abs64 a) = false := by
  rw [signBit, abs64, BitVec.getLsbD_append]
  simp

@[simp] theorem magnitude_abs64 (a : DWord) : magnitude (abs64 a) = magnitude a := by simp [magnitude]

/-- What the converter works on is the value of the pattern with its sign cleared (40_convert.md R106). -/
theorem f64val_abs64 (a : DWord) (h : expField a ≠ 2047) : f64val (abs64 a) = .finite (magnitude (abs64 a)) := by
  simp [f64val, h]

/-! ### Rounding to an integer -/

theorem le_roundNearestEven (num den n : Nat) (hd : 0 < den) (h : n * den ≤ num) : n ≤ roundNearestEven num den := by
  have : n ≤ num / den := (Nat.le_div_iff_mul_le hd).mpr h
  unfold roundNearestEven
  simp only
  split <;> omega

theorem roundNearestEven_le (num den n : Nat) (hd : 0 < den) (h : num ≤ n * den) : roundNearestEven num den ≤ n := by
  have h1 := Nat.div_add_mod num den
  have h2 := Nat.mod_lt num hd
  unfold roundNearestEven
  simp only
  generalize num / den = q at *
  generalize num % den = r at *
  have hq : q ≤ n := by
    by_contra hc
    have := Nat.mul_le_mul_left den (show n + 1 ≤ q by omega)
    nlinarith
  split
  · next hc =>
    have : q ≠ n := by
      rintro rfl
      have : den * q + r ≤ q * den := by omega
      rw [Nat.mul_comm] at this
      omega
    omega
  · exact hq

theorem roundNearestEven_exact (n den : Nat) (hd : 0 < den) : roundNearestEven (n * den) den = n :=
  le_antisymm (roundNearestEven_le _ _ _ hd le_rfl) (le_roundNearestEven _ _ _ hd le_rfl)

theorem roundNearestEven_mono (a b den : Nat) (hd : 0 < den) (h : a ≤ b) :
    roundNearestEven a den ≤ roundNearestEven b den := by
  have ha := Nat.div_add_mod a den
  have hb := Nat.div_add_mod b den
  have h1 := Nat.mod_lt a hd
  have h2 := Nat.mod_lt b hd
  have hq := Nat.div_le_div_right (c := den) h
  unfold roundNearestEven
  simp only
  generalize a / den = q at *
  generalize b / den = q' at *
  generalize a % den = r at *
  generalize b % den = r' at *
  rcases Nat.lt_or_eq_of_le hq with hlt | rfl <;> split <;> split <;> omega

/-! ### The spacing -/

theorem spacing_pos (num den : Nat) : 0 < spacing num den := Nat.pow_pos (by norm_num)

/-- At most 53 significant bits above the spacing. -/
theorem num_lt_spacing (num den : Nat) (hd : 0 < den) : num < 2 ^ 53 * (den * spacing num den) := by
  unfold spacing
  have h : num < 2 ^ ((num / den).log2 + 1) * den := (Nat.div_lt_iff_lt_mul hd).mp Nat.lt_log2_self
  have le : 2 ^ ((num / den).log2 + 1) ≤ 2 ^ 53 * 2 ^ ((num / den).log2 - 52) := by
    rw [← pow_add]
    exact Nat.pow_le_pow_right (by norm_num) (by omega)
  calc num < _ := h
    _ ≤ 2 ^ 53 * 2 ^ ((num / den).log2 - 52) * den := Nat.mul_le_mul_right _ le
    _ = _ := by ring

/-- At least 53 significant bits above the spacing, unless it is the spacing of the subnormals. -/
theorem spacing_le_num (num den : Nat) (h : spacing num den ≠ 1) :
    2 ^ 52 * (den * spacing num den) ≤ num := by
  unfold spacing at *
  have hk : 53 ≤ (num / den).log2 := by
    by_contra hc
    apply h
    rw [show (num / den).log2 - 52 = 0 by omega]
    rfl
  have h0 : num / den ≠ 0 := by
    intro h0
    rw [h0] at hk
    simp at hk
  have e : 2 ^ (num / den).log2 = 2 ^ 52 * 2 ^ ((num / den).log2 - 52) := by
    rw [← pow_add, show 52 + ((num / den).log2 - 52) = (num / den).log2 by omega]
  calc _ = 2 ^ 52 * 2 ^ ((num / den).log2 - 52) * den := by ring
    _ ≤ num / den * den := Nat.mul_le_mul_right _ (e ▸ Nat.log2_self_le h0)
    _ ≤ num := Nat.div_mul_le_self _ _

end Sys2Proof.Machine
end

