-- ==== Sys2Proof/Laws/Decode.lean ====
section
/-! SUPPORT. The fields of a packed transaction word (30_encoding.md R76). -/

namespace Sys2Proof

theorem twKind_packTw (k : BitVec 2) (off : Offset) (v : Word) : twKind (packTw k off v) = k := by
  apply BitVec.eq_of_getLsbD_eq
  intro i hi
  simp only [twKind, packTw, BitVec.getLsbD_extractLsb', BitVec.getLsbD_append]
  grind

theorem twOffset_packTw (k : BitVec 2) (off : Offset) (v : Word) : twOffset (packTw k off v) = off := by
  apply BitVec.eq_of_getLsbD_eq
  intro i hi
  simp only [twOffset, packTw, BitVec.getLsbD_extractLsb', BitVec.getLsbD_append]
  grind

theorem twData_packTw (k : BitVec 2) (off : Offset) (v : Word) : twData (packTw k off v) = v := by
  apply BitVec.eq_of_getLsbD_eq
  intro i hi
  simp only [twData, packTw, BitVec.getLsbD_extractLsb', BitVec.getLsbD_append]
  grind

/-- A transaction word is its three fields. -/
theorem packTw_fields (w : Tw) : packTw (twKind w) (twOffset w) (twData w) = w := by
  apply BitVec.eq_of_getLsbD_eq
  intro i hi
  simp only [twKind, twOffset, twData, packTw, BitVec.getLsbD_extractLsb', BitVec.getLsbD_append]
  grind

end Sys2Proof
end

