-- ==== Sys2Proof/Laws/State.lean ====
section
/-! SUPPORT. One lemma per field per named update of the state, so that no proof unfolds a record update. -/

namespace Sys2Proof.Machine

variable (s : State)

/-! ### Answering an access -/

@[simp] theorem State.respond_opaLo (a : Answer) : (s.respond a).opaLo = s.opaLo := rfl
@[simp] theorem State.respond_opaHi (a : Answer) : (s.respond a).opaHi = s.opaHi := rfl
@[simp] theorem State.respond_opbLo (a : Answer) : (s.respond a).opbLo = s.opbLo := rfl
@[simp] theorem State.respond_opbHi (a : Answer) : (s.respond a).opbHi = s.opbHi := rfl
@[simp] theorem State.respond_status (a : Answer) : (s.respond a).status = s.status := rfl
@[simp] theorem State.respond_resLo (a : Answer) : (s.respond a).resLo = s.resLo := rfl
@[simp] theorem State.respond_resMid (a : Answer) : (s.respond a).resMid = s.resMid := rfl
@[simp] theorem State.respond_resHi (a : Answer) : (s.respond a).resHi = s.resHi := rfl
@[simp] theorem State.respond_resFlags (a : Answer) : (s.respond a).resFlags = s.resFlags := rfl
@[simp] theorem State.respond_pend (a : Answer) : (s.respond a).pend = s.pend := rfl
@[simp] theorem State.respond_inputs (a : Answer) : (s.respond a).inputs = s.inputs.tail := rfl
@[simp] theorem State.respond_answers (a : Answer) : (s.respond a).answers = s.answers ++ [a] := rfl
@[simp] theorem State.respond_draws (a : Answer) : (s.respond a).draws = s.draws := rfl
@[simp] theorem State.respond_delay (a : Answer) : (s.respond a).delay = s.delay - 1 := rfl

/-! ### Acceptance -/

@[simp] theorem State.accept_opaLo (v : Word) : (s.accept v).opaLo = s.opaLo := rfl
@[simp] theorem State.accept_opaHi (v : Word) : (s.accept v).opaHi = s.opaHi := rfl
@[simp] theorem State.accept_opbLo (v : Word) : (s.accept v).opbLo = s.opbLo := rfl
@[simp] theorem State.accept_opbHi (v : Word) : (s.accept v).opbHi = s.opbHi := rfl
@[simp] theorem State.accept_status (v : Word) : (s.accept v).status = statusOnAccept s.status v := rfl
@[simp] theorem State.accept_resLo (v : Word) : (s.accept v).resLo = s.resLo := rfl
@[simp] theorem State.accept_resMid (v : Word) : (s.accept v).resMid = s.resMid := rfl
@[simp] theorem State.accept_resHi (v : Word) : (s.accept v).resHi = s.resHi := rfl
@[simp] theorem State.accept_resFlags (v : Word) : (s.accept v).resFlags = s.resFlags := rfl
@[simp] theorem State.accept_pend (v : Word) : (s.accept v).pend = some ⟨v, s.opa, s.opb⟩ := rfl
@[simp] theorem State.accept_inputs (v : Word) : (s.accept v).inputs = s.inputs := rfl
@[simp] theorem State.accept_answers (v : Word) : (s.accept v).answers = s.answers := rfl
@[simp] theorem State.accept_draws (v : Word) : (s.accept v).draws = s.draws + 1 := rfl
@[simp] theorem State.accept_delay (v : Word) : (s.accept v).delay = Config.completionDelay s.draws := rfl

/-! ### Completion -/

@[simp] theorem State.complete_opaLo (e : Ending) : (s.complete e).opaLo = s.opaLo := rfl
@[simp] theorem State.complete_opaHi (e : Ending) : (s.complete e).opaHi = s.opaHi := rfl
@[simp] theorem State.complete_opbLo (e : Ending) : (s.complete e).opbLo = s.opbLo := rfl
@[simp] theorem State.complete_opbHi (e : Ending) : (s.complete e).opbHi = s.opbHi := rfl
@[simp] theorem State.complete_status (e : Ending) : (s.complete e).status = statusOnComplete s.status e.code := rfl
@[simp] theorem State.complete_resLo (e : Ending) : (s.complete e).resLo = e.delivered.lo := rfl
@[simp] theorem State.complete_resMid (e : Ending) : (s.complete e).resMid = e.delivered.mid := rfl
@[simp] theorem State.complete_resHi (e : Ending) : (s.complete e).resHi = e.delivered.hi := rfl
@[simp] theorem State.complete_resFlags (e : Ending) : (s.complete e).resFlags = e.delivered.flags := rfl
@[simp] theorem State.complete_pend (e : Ending) : (s.complete e).pend = none := rfl
@[simp] theorem State.complete_inputs (e : Ending) : (s.complete e).inputs = s.inputs := rfl
@[simp] theorem State.complete_answers (e : Ending) : (s.complete e).answers = s.answers := rfl
@[simp] theorem State.complete_draws (e : Ending) : (s.complete e).draws = s.draws := rfl
@[simp] theorem State.complete_delay (e : Ending) : (s.complete e).delay = 0 := rfl

/-! ### Reset asserted -/

@[simp] theorem State.assertReset_opaLo : s.assertReset.opaLo = 0#32 := rfl
@[simp] theorem State.assertReset_opaHi : s.assertReset.opaHi = 0#32 := rfl
@[simp] theorem State.assertReset_opbLo : s.assertReset.opbLo = 0#32 := rfl
@[simp] theorem State.assertReset_opbHi : s.assertReset.opbHi = 0#32 := rfl
@[simp] theorem State.assertReset_status : s.assertReset.status = 0#32 := rfl
@[simp] theorem State.assertReset_resLo : s.assertReset.resLo = 0#32 := rfl
@[simp] theorem State.assertReset_resMid : s.assertReset.resMid = 0#32 := rfl
@[simp] theorem State.assertReset_resHi : s.assertReset.resHi = 0#32 := rfl
@[simp] theorem State.assertReset_resFlags : s.assertReset.resFlags = 0#32 := rfl
@[simp] theorem State.assertReset_pend : s.assertReset.pend = none := rfl
@[simp] theorem State.assertReset_inputs : s.assertReset.inputs = afterReset s.inputs := rfl
@[simp] theorem State.assertReset_answers : s.assertReset.answers = s.answers := rfl
@[simp] theorem State.assertReset_draws : s.assertReset.draws = s.draws := rfl
@[simp] theorem State.assertReset_delay : s.assertReset.delay = 0 := rfl

/-! ### Writing an operand register -/

@[simp] theorem State.writeOpaLo_opaLo (v : Word) : (s.writeReg .opaLo v).opaLo = v := rfl
@[simp] theorem State.writeOpaLo_opaHi (v : Word) : (s.writeReg .opaLo v).opaHi = s.opaHi := rfl
@[simp] theorem State.writeOpaLo_opbLo (v : Word) : (s.writeReg .opaLo v).opbLo = s.opbLo := rfl
@[simp] theorem State.writeOpaLo_opbHi (v : Word) : (s.writeReg .opaLo v).opbHi = s.opbHi := rfl
@[simp] theorem State.writeOpaLo_status (v : Word) : (s.writeReg .opaLo v).status = s.status := rfl
@[simp] theorem State.writeOpaLo_resLo (v : Word) : (s.writeReg .opaLo v).resLo = s.resLo := rfl
@[simp] theorem State.writeOpaLo_resMid (v : Word) : (s.writeReg .opaLo v).resMid = s.resMid := rfl
@[simp] theorem State.writeOpaLo_resHi (v : Word) : (s.writeReg .opaLo v).resHi = s.resHi := rfl
@[simp] theorem State.writeOpaLo_resFlags (v : Word) : (s.writeReg .opaLo v).resFlags = s.resFlags := rfl
@[simp] theorem State.writeOpaLo_pend (v : Word) : (s.writeReg .opaLo v).pend = s.pend := rfl
@[simp] theorem State.writeOpaLo_inputs (v : Word) : (s.writeReg .opaLo v).inputs = s.inputs := rfl
@[simp] theorem State.writeOpaLo_answers (v : Word) : (s.writeReg .opaLo v).answers = s.answers := rfl
@[simp] theorem State.writeOpaLo_draws (v : Word) : (s.writeReg .opaLo v).draws = s.draws := rfl
@[simp] theorem State.writeOpaLo_delay (v : Word) : (s.writeReg .opaLo v).delay = s.delay := rfl

@[simp] theorem State.writeOpaHi_opaLo (v : Word) : (s.writeReg .opaHi v).opaLo = s.opaLo := rfl
@[simp] theorem State.writeOpaHi_opaHi (v : Word) : (s.writeReg .opaHi v).opaHi = v := rfl
@[simp] theorem State.writeOpaHi_opbLo (v : Word) : (s.writeReg .opaHi v).opbLo = s.opbLo := rfl
@[simp] theorem State.writeOpaHi_opbHi (v : Word) : (s.writeReg .opaHi v).opbHi = s.opbHi := rfl
@[simp] theorem State.writeOpaHi_status (v : Word) : (s.writeReg .opaHi v).status = s.status := rfl
@[simp] theorem State.writeOpaHi_resLo (v : Word) : (s.writeReg .opaHi v).resLo = s.resLo := rfl
@[simp] theorem State.writeOpaHi_resMid (v : Word) : (s.writeReg .opaHi v).resMid = s.resMid := rfl
@[simp] theorem State.writeOpaHi_resHi (v : Word) : (s.writeReg .opaHi v).resHi = s.resHi := rfl
@[simp] theorem State.writeOpaHi_resFlags (v : Word) : (s.writeReg .opaHi v).resFlags = s.resFlags := rfl
@[simp] theorem State.writeOpaHi_pend (v : Word) : (s.writeReg .opaHi v).pend = s.pend := rfl
@[simp] theorem State.writeOpaHi_inputs (v : Word) : (s.writeReg .opaHi v).inputs = s.inputs := rfl
@[simp] theorem State.writeOpaHi_answers (v : Word) : (s.writeReg .opaHi v).answers = s.answers := rfl
@[simp] theorem State.writeOpaHi_draws (v : Word) : (s.writeReg .opaHi v).draws = s.draws := rfl
@[simp] theorem State.writeOpaHi_delay (v : Word) : (s.writeReg .opaHi v).delay = s.delay := rfl

@[simp] theorem State.writeOpbLo_opaLo (v : Word) : (s.writeReg .opbLo v).opaLo = s.opaLo := rfl
@[simp] theorem State.writeOpbLo_opaHi (v : Word) : (s.writeReg .opbLo v).opaHi = s.opaHi := rfl
@[simp] theorem State.writeOpbLo_opbLo (v : Word) : (s.writeReg .opbLo v).opbLo = v := rfl
@[simp] theorem State.writeOpbLo_opbHi (v : Word) : (s.writeReg .opbLo v).opbHi = s.opbHi := rfl
@[simp] theorem State.writeOpbLo_status (v : Word) : (s.writeReg .opbLo v).status = s.status := rfl
@[simp] theorem State.writeOpbLo_resLo (v : Word) : (s.writeReg .opbLo v).resLo = s.resLo := rfl
@[simp] theorem State.writeOpbLo_resMid (v : Word) : (s.writeReg .opbLo v).resMid = s.resMid := rfl
@[simp] theorem State.writeOpbLo_resHi (v : Word) : (s.writeReg .opbLo v).resHi = s.resHi := rfl
@[simp] theorem State.writeOpbLo_resFlags (v : Word) : (s.writeReg .opbLo v).resFlags = s.resFlags := rfl
@[simp] theorem State.writeOpbLo_pend (v : Word) : (s.writeReg .opbLo v).pend = s.pend := rfl
@[simp] theorem State.writeOpbLo_inputs (v : Word) : (s.writeReg .opbLo v).inputs = s.inputs := rfl
@[simp] theorem State.writeOpbLo_answers (v : Word) : (s.writeReg .opbLo v).answers = s.answers := rfl
@[simp] theorem State.writeOpbLo_draws (v : Word) : (s.writeReg .opbLo v).draws = s.draws := rfl
@[simp] theorem State.writeOpbLo_delay (v : Word) : (s.writeReg .opbLo v).delay = s.delay := rfl

@[simp] theorem State.writeOpbHi_opaLo (v : Word) : (s.writeReg .opbHi v).opaLo = s.opaLo := rfl
@[simp] theorem State.writeOpbHi_opaHi (v : Word) : (s.writeReg .opbHi v).opaHi = s.opaHi := rfl
@[simp] theorem State.writeOpbHi_opbLo (v : Word) : (s.writeReg .opbHi v).opbLo = s.opbLo := rfl
@[simp] theorem State.writeOpbHi_opbHi (v : Word) : (s.writeReg .opbHi v).opbHi = v := rfl
@[simp] theorem State.writeOpbHi_status (v : Word) : (s.writeReg .opbHi v).status = s.status := rfl
@[simp] theorem State.writeOpbHi_resLo (v : Word) : (s.writeReg .opbHi v).resLo = s.resLo := rfl
@[simp] theorem State.writeOpbHi_resMid (v : Word) : (s.writeReg .opbHi v).resMid = s.resMid := rfl
@[simp] theorem State.writeOpbHi_resHi (v : Word) : (s.writeReg .opbHi v).resHi = s.resHi := rfl
@[simp] theorem State.writeOpbHi_resFlags (v : Word) : (s.writeReg .opbHi v).resFlags = s.resFlags := rfl
@[simp] theorem State.writeOpbHi_pend (v : Word) : (s.writeReg .opbHi v).pend = s.pend := rfl
@[simp] theorem State.writeOpbHi_inputs (v : Word) : (s.writeReg .opbHi v).inputs = s.inputs := rfl
@[simp] theorem State.writeOpbHi_answers (v : Word) : (s.writeReg .opbHi v).answers = s.answers := rfl
@[simp] theorem State.writeOpbHi_draws (v : Word) : (s.writeReg .opbHi v).draws = s.draws := rfl
@[simp] theorem State.writeOpbHi_delay (v : Word) : (s.writeReg .opbHi v).delay = s.delay := rfl

/-! ### The other registers of a write -/

@[simp] theorem State.writeReg_cmd (v : Word) : s.writeReg .cmd v = s.accept v := rfl
@[simp] theorem State.writeReg_status (v : Word) : s.writeReg .status v = s := rfl
@[simp] theorem State.writeReg_resLo (v : Word) : s.writeReg .resLo v = s := rfl
@[simp] theorem State.writeReg_resMid (v : Word) : s.writeReg .resMid v = s := rfl
@[simp] theorem State.writeReg_resHi (v : Word) : s.writeReg .resHi v = s := rfl
@[simp] theorem State.writeReg_resFlags (v : Word) : s.writeReg .resFlags v = s := rfl

/-! ### Views over the fields -/

@[simp] theorem State.respond_opa (a : Answer) : (s.respond a).opa = s.opa := rfl
@[simp] theorem State.respond_opb (a : Answer) : (s.respond a).opb = s.opb := rfl
@[simp] theorem State.respond_busy (a : Answer) : (s.respond a).busy = s.busy := rfl
@[simp] theorem State.respond_done (a : Answer) : (s.respond a).done = s.done := rfl
@[simp] theorem State.respond_err (a : Answer) : (s.respond a).err = s.err := rfl
@[simp] theorem State.respond_lastop (a : Answer) : (s.respond a).lastop = s.lastop := rfl
@[simp] theorem State.respond_result (a : Answer) : (s.respond a).result = s.result := rfl
@[simp] theorem State.accept_opa (v : Word) : (s.accept v).opa = s.opa := rfl
@[simp] theorem State.accept_opb (v : Word) : (s.accept v).opb = s.opb := rfl
@[simp] theorem State.accept_result (v : Word) : (s.accept v).result = s.result := rfl
@[simp] theorem State.complete_opa (e : Ending) : (s.complete e).opa = s.opa := rfl
@[simp] theorem State.complete_opb (e : Ending) : (s.complete e).opb = s.opb := rfl
@[simp] theorem State.complete_result (e : Ending) : (s.complete e).result = e.delivered := rfl
@[simp] theorem State.assertReset_result : s.assertReset.result = Record.zero := rfl

end Sys2Proof.Machine
end

