-- ==== Sys2Proof/Laws/Flags.lean ====
section
/-! SUPPORT. The fields of STATUS: each write of a field sets that field and keeps every other bit, and what acceptance and
completion leave in each field (10_state.md R24, 42_host_access.md R164, R165). -/

namespace Sys2Proof.Machine

/-! ### The bits of each write -/

theorem getLsbD_setBusy (w : Word) (x : Bool) (i : Nat) :
    (setBusy w x).getLsbD i = if i = 0 then x else w.getLsbD i := by
  simp only [setBusy, BitVec.getLsbD_append, BitVec.getLsbD_extractLsb', BitVec.getLsbD_ofBool]
  grind

theorem getLsbD_setDone (w : Word) (x : Bool) (i : Nat) :
    (setDone w x).getLsbD i = if i = 1 then x else w.getLsbD i := by
  simp only [setDone, BitVec.getLsbD_append, BitVec.getLsbD_extractLsb', BitVec.getLsbD_ofBool]
  grind

theorem getLsbD_setErr (w : Word) (x : BitVec 3) (i : Nat) :
    (setErr w x).getLsbD i = if 8 ≤ i ∧ i < 11 then x.getLsbD (i - 8) else w.getLsbD i := by
  simp only [setErr, BitVec.getLsbD_append, BitVec.getLsbD_extractLsb']
  grind

theorem getLsbD_setLastop (w : Word) (x : BitVec 4) (i : Nat) :
    (setLastop w x).getLsbD i = if 16 ≤ i ∧ i < 20 then x.getLsbD (i - 16) else w.getLsbD i := by
  simp only [setLastop, BitVec.getLsbD_append, BitVec.getLsbD_extractLsb']
  grind

/-! ### One field written, one field read -/

@[simp] theorem statusBusy_setBusy (w : Word) (x : Bool) : statusBusy (setBusy w x) = x := by
  simp [statusBusy, getLsbD_setBusy, -BitVec.getLsbD_eq_getElem]

@[simp] theorem statusDone_setBusy (w : Word) (x : Bool) : statusDone (setBusy w x) = statusDone w := by
  simp [statusDone, getLsbD_setBusy, -BitVec.getLsbD_eq_getElem]

@[simp] theorem statusErr_setBusy (w : Word) (x : Bool) : statusErr (setBusy w x) = statusErr w := by
  apply BitVec.eq_of_getLsbD_eq
  intro i hi
  simp only [statusErr, BitVec.getLsbD_extractLsb', getLsbD_setBusy]
  grind

@[simp] theorem statusLastop_setBusy (w : Word) (x : Bool) : statusLastop (setBusy w x) = statusLastop w := by
  apply BitVec.eq_of_getLsbD_eq
  intro i hi
  simp only [statusLastop, BitVec.getLsbD_extractLsb', getLsbD_setBusy]
  grind

@[simp] theorem statusReserved_setBusy (w : Word) (x : Bool) : statusReserved (setBusy w x) = statusReserved w := by
  apply BitVec.eq_of_getLsbD_eq
  intro i hi
  simp only [statusReserved, BitVec.getLsbD_and, getLsbD_setBusy]
  by_cases h : i = 0 <;> simp [h, -BitVec.getLsbD_eq_getElem]

@[simp] theorem statusBusy_setDone (w : Word) (x : Bool) : statusBusy (setDone w x) = statusBusy w := by
  simp [statusBusy, getLsbD_setDone, -BitVec.getLsbD_eq_getElem]

@[simp] theorem statusDone_setDone (w : Word) (x : Bool) : statusDone (setDone w x) = x := by
  simp [statusDone, getLsbD_setDone, -BitVec.getLsbD_eq_getElem]

@[simp] theorem statusErr_setDone (w : Word) (x : Bool) : statusErr (setDone w x) = statusErr w := by
  apply BitVec.eq_of_getLsbD_eq
  intro i hi
  simp only [statusErr, BitVec.getLsbD_extractLsb', getLsbD_setDone]
  grind

@[simp] theorem statusLastop_setDone (w : Word) (x : Bool) : statusLastop (setDone w x) = statusLastop w := by
  apply BitVec.eq_of_getLsbD_eq
  intro i hi
  simp only [statusLastop, BitVec.getLsbD_extractLsb', getLsbD_setDone]
  grind

@[simp] theorem statusReserved_setDone (w : Word) (x : Bool) : statusReserved (setDone w x) = statusReserved w := by
  apply BitVec.eq_of_getLsbD_eq
  intro i hi
  simp only [statusReserved, BitVec.getLsbD_and, getLsbD_setDone]
  by_cases h : i = 1 <;> simp [h, -BitVec.getLsbD_eq_getElem]

@[simp] theorem statusBusy_setErr (w : Word) (x : BitVec 3) : statusBusy (setErr w x) = statusBusy w := by
  simp [statusBusy, getLsbD_setErr, -BitVec.getLsbD_eq_getElem]

@[simp] theorem statusDone_setErr (w : Word) (x : BitVec 3) : statusDone (setErr w x) = statusDone w := by
  simp [statusDone, getLsbD_setErr, -BitVec.getLsbD_eq_getElem]

@[simp] theorem statusErr_setErr (w : Word) (x : BitVec 3) : statusErr (setErr w x) = x := by
  apply BitVec.eq_of_getLsbD_eq
  intro i hi
  simp only [statusErr, BitVec.getLsbD_extractLsb', getLsbD_setErr]
  grind

@[simp] theorem statusLastop_setErr (w : Word) (x : BitVec 3) : statusLastop (setErr w x) = statusLastop w := by
  apply BitVec.eq_of_getLsbD_eq
  intro i hi
  simp only [statusLastop, BitVec.getLsbD_extractLsb', getLsbD_setErr]
  grind

@[simp] theorem statusReserved_setErr (w : Word) (x : BitVec 3) : statusReserved (setErr w x) = statusReserved w := by
  apply BitVec.eq_of_getLsbD_eq
  intro i hi
  have key : ∀ i < 32, (8 ≤ i ∧ i < 11) → (0xFFF0F8FC#32).getLsbD i = false := by decide
  simp only [statusReserved, BitVec.getLsbD_and, getLsbD_setErr]
  by_cases h : 8 ≤ i ∧ i < 11 <;> simp [h, key i hi, -BitVec.getLsbD_eq_getElem]

@[simp] theorem statusBusy_setLastop (w : Word) (x : BitVec 4) : statusBusy (setLastop w x) = statusBusy w := by
  simp [statusBusy, getLsbD_setLastop, -BitVec.getLsbD_eq_getElem]

@[simp] theorem statusDone_setLastop (w : Word) (x : BitVec 4) : statusDone (setLastop w x) = statusDone w := by
  simp [statusDone, getLsbD_setLastop, -BitVec.getLsbD_eq_getElem]

@[simp] theorem statusErr_setLastop (w : Word) (x : BitVec 4) : statusErr (setLastop w x) = statusErr w := by
  apply BitVec.eq_of_getLsbD_eq
  intro i hi
  simp only [statusErr, BitVec.getLsbD_extractLsb', getLsbD_setLastop]
  grind

@[simp] theorem statusLastop_setLastop (w : Word) (x : BitVec 4) : statusLastop (setLastop w x) = x := by
  apply BitVec.eq_of_getLsbD_eq
  intro i hi
  simp only [statusLastop, BitVec.getLsbD_extractLsb', getLsbD_setLastop]
  grind

@[simp] theorem statusReserved_setLastop (w : Word) (x : BitVec 4) : statusReserved (setLastop w x) = statusReserved w := by
  apply BitVec.eq_of_getLsbD_eq
  intro i hi
  have key : ∀ i < 32, (16 ≤ i ∧ i < 20) → (0xFFF0F8FC#32).getLsbD i = false := by decide
  simp only [statusReserved, BitVec.getLsbD_and, getLsbD_setLastop]
  by_cases h : 16 ≤ i ∧ i < 20 <;> simp [h, key i hi, -BitVec.getLsbD_eq_getElem]

/-! ### Acceptance and completion -/

@[simp] theorem statusBusy_onAccept (w v : Word) : statusBusy (statusOnAccept w v) = true := by
  simp [statusOnAccept]
@[simp] theorem statusDone_onAccept (w v : Word) : statusDone (statusOnAccept w v) = false := by
  simp [statusOnAccept]
@[simp] theorem statusErr_onAccept (w v : Word) : statusErr (statusOnAccept w v) = 0#3 := by
  simp [statusOnAccept]
@[simp] theorem statusLastop_onAccept (w v : Word) :
    statusLastop (statusOnAccept w v) = v.extractLsb' 0 4 := by
  simp [statusOnAccept]
@[simp] theorem statusReserved_onAccept (w v : Word) :
    statusReserved (statusOnAccept w v) = statusReserved w := by
  simp [statusOnAccept]

@[simp] theorem statusBusy_onComplete (w : Word) (c : Code) : statusBusy (statusOnComplete w c) = false := by
  simp [statusOnComplete]
@[simp] theorem statusDone_onComplete (w : Word) (c : Code) : statusDone (statusOnComplete w c) = true := by
  simp [statusOnComplete]
@[simp] theorem statusErr_onComplete (w : Word) (c : Code) : statusErr (statusOnComplete w c) = c.bits := by
  simp [statusOnComplete]
@[simp] theorem statusLastop_onComplete (w : Word) (c : Code) :
    statusLastop (statusOnComplete w c) = statusLastop w := by
  simp [statusOnComplete]
@[simp] theorem statusReserved_onComplete (w : Word) (c : Code) :
    statusReserved (statusOnComplete w c) = statusReserved w := by
  simp [statusOnComplete]

@[simp] theorem State.accept_busy (s : State) (v : Word) : (s.accept v).busy = true := by simp [State.busy]
@[simp] theorem State.accept_done (s : State) (v : Word) : (s.accept v).done = false := by simp [State.done]
@[simp] theorem State.accept_err (s : State) (v : Word) : (s.accept v).err = 0#3 := by simp [State.err]
@[simp] theorem State.accept_lastop (s : State) (v : Word) :
    (s.accept v).lastop = v.extractLsb' 0 4 := by simp [State.lastop]
@[simp] theorem State.complete_busy (s : State) (e : Ending) : (s.complete e).busy = false := by simp [State.busy]
@[simp] theorem State.complete_done (s : State) (e : Ending) : (s.complete e).done = true := by simp [State.done]
@[simp] theorem State.complete_err (s : State) (e : Ending) : (s.complete e).err = e.code.bits := by simp [State.err]
@[simp] theorem State.complete_lastop (s : State) (e : Ending) : (s.complete e).lastop = s.lastop := by
  simp [State.lastop]

theorem Code.bits_le_three (c : Code) : c.bits.toNat ≤ 3 := by cases c <;> decide

theorem Code.bits_eq_zero (c : Code) : c.bits = 0#3 ↔ c = .none := by cases c <;> decide

end Sys2Proof.Machine
end

