-- ==== Sys2Proof/Laws/Ops.lean ====
section
/-! SUPPORT. What each shared operation, each meaning and the step can do, said once. -/

namespace Sys2Proof.Machine

/-! ### Admission and the register map -/

theorem admitted_iff (off : Offset) (width : Nat) :
    admitted off width = true ↔ width = 4 ∧ off.toNat % 4 = 0 ∧ off.toNat ≤ 0x24 := by
  simp [admitted, and_assoc]

/-- The admitted offsets are the offsets of the ten registers (20_memory.md R51). -/
theorem regAt_isSome_iff (off : Offset) : (regAt off).isSome = true ↔ off.toNat % 4 = 0 ∧ off.toNat ≤ 0x24 := by
  revert off; decide

theorem regAt_offset (r : Reg) : regAt r.offset = some r := by cases r <;> rfl

theorem offset_of_regAt (off : Offset) (r : Reg) (h : regAt off = some r) : r.offset = off := by
  revert off r; decide

theorem admitted_offset (r : Reg) : admitted r.offset 4 = true := by cases r <;> rfl

/-! ### Writes -/

/-- What a register write can do (20_memory.md R58): replace one operand register, accept a command, or nothing. -/
theorem State.writeReg_cases (s : State) (r : Reg) (v : Word) :
    s.writeReg r v = { s with opaLo := v } ∨ s.writeReg r v = { s with opaHi := v } ∨
    s.writeReg r v = { s with opbLo := v } ∨ s.writeReg r v = { s with opbHi := v } ∨
    s.writeReg r v = s.accept v ∧ r = .cmd ∨ s.writeReg r v = s := by
  cases r <;> simp [State.writeReg]

/-! ### The meanings -/

theorem execRd_not_admitted (s : State) (off : Offset) (width : Nat) (h : admitted off width = false) :
    execRd off width s = .next (s.respond .busErr) := by simp [execRd, h]

theorem execRd_held (s : State) (off : Offset) (h : admitted off 4 = true) (hb : s.holdsRead off = true) :
    execRd off 4 s = .next s := by simp [execRd, h, hb]

theorem execRd_register (s : State) (r : Reg) (hb : s.holdsRead r.offset = false) :
    execRd r.offset 4 s = .next (s.respond (.data (s.readReg r))) := by
  simp [execRd, admitted_offset, hb, State.readAt, regAt_offset]

theorem execWr_not_admitted (s : State) (off : Offset) (width : Nat) (v : Word) (h : admitted off width = false) :
    execWr off width v s = .next (s.respond .busErr) := by simp [execWr, h]

theorem execWr_held (s : State) (off : Offset) (v : Word) (h : admitted off 4 = true) (hb : s.busy = true) :
    execWr off 4 v s = .next s := by simp [execWr, h, State.holdsWrite, hb]

theorem execWr_register (s : State) (r : Reg) (v : Word) (hb : s.busy = false) :
    execWr r.offset 4 v s = .next ((s.respond .ack).writeReg r v) := by
  simp [execWr, admitted_offset, State.holdsWrite, hb, State.writeAt, regAt_offset]

/-- What a RD can do: nothing while it is held, or answer. -/
theorem execRd_cases (s : State) (off : Offset) (width : Nat) :
    execRd off width s = .next s ∧ admitted off width = true ∧ s.holdsRead off = true ∨
    execRd off width s = .next (s.respond (.data (s.readAt off))) ∧ admitted off width = true ∧ s.holdsRead off = false ∨
    execRd off width s = .next (s.respond .busErr) ∧ admitted off width = false := by
  cases h : admitted off width <;> cases hb : s.holdsRead off <;> simp [execRd, h, hb]

/-- What a WR can do: nothing while it is held, answer ACK and write a register, or answer BUSERR. -/
theorem execWr_cases (s : State) (off : Offset) (width : Nat) (v : Word) :
    execWr off width v s = .next s ∧ admitted off width = true ∧ s.busy = true ∨
    (∃ r, regAt off = some r ∧ execWr off width v s = .next ((s.respond .ack).writeReg r v) ∧
      admitted off width = true ∧ s.busy = false) ∨
    execWr off width v s = .next (s.respond .busErr) ∧ admitted off width = false := by
  cases h : admitted off width
  · exact .inr (.inr ⟨execWr_not_admitted s off width v h, rfl⟩)
  · cases hb : s.busy
    · obtain ⟨r, hr⟩ := Option.isSome_iff_exists.mp ((regAt_isSome_iff off).mpr ((admitted_iff off width).mp h).2)
      exact .inr (.inl ⟨r, hr, by simp [execWr, h, State.holdsWrite, hb, State.writeAt, hr], rfl, rfl⟩)
    · exact .inl ⟨by simp [execWr, h, State.holdsWrite, hb], rfl, rfl⟩

theorem execCvtF64_pending (s : State) (p : Pend) (h : s.pend = some p) :
    execCvtF64 s = .next (s.complete (cvt p.a)) := by simp [execCvtF64, h]

theorem execMul64_pending (s : State) (p : Pend) (h : s.pend = some p) :
    execMul64 s = .next (s.complete (mul64 p.a p.b)) := by simp [execMul64, h]

/-! ### The step -/

theorem step_of_fetch_instr (s : State) (i : Instr) (h : s.fetch = .instr i) : step s = exec i s := by
  simp [step, h]

theorem step_of_fetch_illegal (s : State) (h : s.fetch = .illegalCommand) : step s = .next s.completeIllegal := by
  simp [step, h]

theorem step_of_fetch_reset (s : State) (h : s.fetch = .reset) : step s = .next s.assertReset := by
  simp [step, h]

/-- The unit's step is the completion with DISPATCH's ending (42_host_access.md R165, R166). -/
theorem step_of_unitFetch (s : State) (p : Pend) (hp : s.pend = some p) (h : s.fetch = unitFetch p) :
    step s = .next (s.complete (dispatch p)) := by
  unfold step
  rw [h]
  by_cases h1 : p.v = 1#32
  · simp [unitFetch, decodeCmd, dispatch, h1, exec, execCvtF64, hp]
  · by_cases h2 : p.v = 2#32
    · simp [unitFetch, decodeCmd, dispatch, h2, exec, execMul64, hp]
    · simp [unitFetch, decodeCmd, dispatch, h1, h2, State.completeIllegal]

/-- Everything an instruction can do when it answers a next state. -/
theorem exec_next_cases (i : Instr) (s t : State) (h : exec i s = .next t) :
    t = s ∨ (∃ a, t = s.respond a) ∨ (∃ r v, s.busy = false ∧ t = (s.respond .ack).writeReg r v) ∨
    ∃ p, s.pend = some p ∧ (t = s.complete (cvt p.a) ∨ t = s.complete (mul64 p.a p.b)) := by
  cases i with
  | cvtF64 =>
    simp only [exec, execCvtF64] at h
    split at h
    · next p hp => exact .inr (.inr (.inr ⟨p, hp, .inl (by simpa using h.symm)⟩))
    · cases h
  | mul64 =>
    simp only [exec, execMul64] at h
    split at h
    · next p hp => exact .inr (.inr (.inr ⟨p, hp, .inr (by simpa using h.symm)⟩))
    · cases h
  | rd off width =>
    simp only [exec] at h
    rcases execRd_cases s off width with ⟨e, -⟩ | ⟨e, -⟩ | ⟨e, -⟩ <;> rw [e] at h <;> cases h
    exacts [.inl rfl, .inr (.inl ⟨_, rfl⟩), .inr (.inl ⟨_, rfl⟩)]
  | wr off width v =>
    simp only [exec] at h
    rcases execWr_cases s off width v with ⟨e, -⟩ | ⟨r, -, e, -, hb⟩ | ⟨e, -⟩ <;> rw [e] at h <;> cases h
    exacts [.inl rfl, .inr (.inr (.inl ⟨r, v, hb, rfl⟩)), .inr (.inl ⟨_, rfl⟩)]

/-- An input asks for a host access, never for a command of the unit. -/
theorem inputFetch_access (x : HostInput) (i : Instr) (h : inputFetch x = .instr i) :
    (∃ off width, i = .rd off width) ∨ ∃ off width v, i = .wr off width v := by
  cases x with
  | word w =>
    simp only [inputFetch, decodeTw] at h
    split_ifs at h <;> simp_all <;> subst h <;> simp
  | bus off width data => cases data <;> cases h <;> simp [busAccess]
  | mem addr width data =>
    simp only [inputFetch] at h
    split at h
    · cases data <;> cases h <;> simp [busAccess]
    · cases h
  | reset | resetInAccess => cases h

/-- The byte address CVT_BASE plus an offset is that offset of the window (00_scope.md R9). -/
@[simp] theorem windowOffset_cvtBase_add (off : Offset) : windowOffset (Config.cvtBase + off.toNat) = some off := by
  have := off.isLt
  unfold windowOffset Config.windowSize
  rw [if_pos (by omega)]
  simp

/-- Outside the 64 bytes from CVT_BASE on there is no offset (20_memory.md R50). -/
theorem windowOffset_outside (addr : Nat) (h : addr < Config.cvtBase ∨ Config.cvtBase + 64 ≤ addr) :
    windowOffset addr = none := by
  unfold windowOffset Config.windowSize
  rw [if_neg (by omega)]

/-- An input asks for the access that it spells. -/
theorem inputFetch_of_spells (x : HostInput) (i : Instr) (h : Spells x i) : inputFetch x = .instr i := by
  cases h with
  | word w i h => simp [inputFetch, h]
  | _ => simp [inputFetch, busAccess]

/-- The host's oldest input is no illegal command: those are the unit's. -/
theorem inputFetch_ne_illegal (x : HostInput) : inputFetch x ≠ .illegalCommand := by
  cases x with
  | word w => simp only [inputFetch]; split <;> simp
  | mem addr width data => simp only [inputFetch]; split <;> simp
  | bus | reset | resetInAccess => simp [inputFetch]

/-- What a step performs is the unit's pending command, or comes from the host's oldest input. -/
theorem fetch_cases (s : State) :
    (∃ p, s.pend = some p ∧ s.fetch = unitFetch p) ∨ s.fetch = .idle ∨ s.fetch = .reset ∨
    ∃ x rest, s.inputs = x :: rest ∧ s.fetch = inputFetch x := by
  have host : s.hostFetch = .idle ∨ ∃ x rest, s.inputs = x :: rest ∧ s.hostFetch = inputFetch x := by
    cases h : s.inputs <;> simp [State.hostFetch, h]
  cases hp : s.pend with
  | none => simp only [State.fetch, hp]; tauto
  | some p =>
    by_cases hd : s.delay = 0
    · simp [State.fetch, hp, hd]
    · cases hf : s.hostFetch with
      | idle => simp [State.fetch, hp, hd, hf]
      | instr i =>
        cases hh : s.holds i <;> cases hr : s.resetBehind <;> simp_all [State.fetch]
      | _ => simp_all [State.fetch]

/-- Everything a step can do when it answers a next state: nothing, an answer, an answered write, the completion of the
pending command with DISPATCH's ending, or reset. -/
theorem step_next_cases (s t : State) (h : step s = .next t) :
    t = s ∨ (∃ a, t = s.respond a) ∨ (∃ r v, s.busy = false ∧ t = (s.respond .ack).writeReg r v) ∨
    (∃ p, s.pend = some p ∧ t = s.complete (dispatch p)) ∨ t = s.assertReset := by
  rcases fetch_cases s with ⟨p, hp, hf⟩ | hf | hf | ⟨x, rest, -, hf⟩
  · rw [step_of_unitFetch s p hp hf] at h
    cases h
    exact .inr (.inr (.inr (.inl ⟨p, hp, rfl⟩)))
  · simp only [step, hf] at h
    cases h
    exact .inl rfl
  · rw [step_of_fetch_reset s hf] at h
    cases h
    exact .inr (.inr (.inr (.inr rfl)))
  · simp only [step, hf] at h
    split at h
    · next i hi =>
      rcases inputFetch_access x i hi with ⟨off, width, rfl⟩ | ⟨off, width, v, rfl⟩
      · rcases execRd_cases s off width with ⟨e, -⟩ | ⟨e, -⟩ | ⟨e, -⟩ <;> rw [exec, e] at h <;> cases h
        exacts [.inl rfl, .inr (.inl ⟨_, rfl⟩), .inr (.inl ⟨_, rfl⟩)]
      · rcases execWr_cases s off width v with ⟨e, -⟩ | ⟨r, -, e, -, hb⟩ | ⟨e, -⟩ <;> rw [exec, e] at h <;> cases h
        exacts [.inl rfl, .inr (.inr (.inl ⟨r, v, hb, rfl⟩)), .inr (.inl ⟨_, rfl⟩)]
    · next hi => exact absurd hi (inputFetch_ne_illegal x)
    · cases h; exact .inr (.inr (.inr (.inr rfl)))
    · cases h; exact .inl rfl
    all_goals cases h

/-! ### Frames -/

/-- Answering an access changes no register. -/
theorem sameRegisters_respond (s : State) (a : Answer) : SameRegisters s (s.respond a) := by constructor <;> rfl

/-- What completion leaves unchanged. -/
theorem completionFrame_complete (s : State) (e : Ending) : CompletionFrame s (s.complete e) := by
  constructor <;> simp

/-- With the delay run out, or nothing issued, the unit has the turn. -/
theorem fetch_of_unit_turn (s : State) (p : Pend) (hp : s.pend = some p) (h : s.delay = 0 ∨ s.inputs = []) :
    s.fetch = unitFetch p := by
  rcases h with h | h
  · simp [State.fetch, hp, h]
  · simp [State.fetch, hp, State.hostFetch, h]

/-! ### Runs -/

@[simp] theorem runSteps_zero (s : State) : runSteps 0 s = .next s := rfl

theorem runSteps_succ (k : Nat) (s t : State) (h : step s = .next t) : runSteps (k + 1) s = runSteps k t := by
  simp [runSteps, h]

theorem core_run_of_next (M : Host.Core) (k : Nat) (s t : M.State) (h : M.step s = .next t) :
    M.run (k + 1) s = M.run k t := by simp [Host.Core.run, h]

theorem core_run_of_fault (M : Host.Core) (k : Nat) (s : M.State) (r : M.Fault) (h : M.step s = .fault r) :
    M.run (k + 1) s = .fault r := by simp [Host.Core.run, h]

theorem core_run_of_refused (M : Host.Core) (k : Nat) (s : M.State) (r : M.Refusal) (h : M.step s = .refused r) :
    M.run (k + 1) s = .refused r := by simp [Host.Core.run, h]

/-- `runSteps` is the host's own run of the machine. -/
theorem runSteps_eq_core_run (k : Nat) (s : State) : runSteps k s = Host.Core.run Sys2Proof.core k s := by
  induction k generalizing s with
  | zero => rfl
  | succ k ih =>
    cases h : step s with
    | next t => exact (runSteps_succ k s t h).trans ((ih t).trans (core_run_of_next Sys2Proof.core k s t h).symm)
    | fault r =>
      have e : runSteps (k + 1) s = .fault r := by simp [runSteps, h]
      exact e.trans (core_run_of_fault Sys2Proof.core k s r h).symm
    | refused r =>
      have e : runSteps (k + 1) s = .refused r := by simp [runSteps, h]
      exact e.trans (core_run_of_refused Sys2Proof.core k s r h).symm

end Sys2Proof.Machine
end

