-- ==== Sys2Proof/Laws/PerInstr.lean ====
section
/-! SUPPORT. Per-instruction families: the space an instruction is encoded in. -/

namespace Sys2Proof

/-- A command of the unit, as against an access of the host (10_state.md R20). -/
def Instr.isCommand : Instr → Bool
  | .cvtF64 => true
  | .mul64 => true
  | .rd _ _ => false
  | .wr _ _ _ => false

/-- The encoding is a value written to CMD (30_encoding.md R70), not a transaction word (R76). -/
def Encoded.isCmd : Encoded → Bool
  | .cmd _ => true
  | .tw _ => false

/-- Commands, and only commands, are encoded as CMD values (30_encoding.md R70, R76). -/
def Laws.EncodingSpace.Statement (i : Instr) : Prop := (encode i).isCmd = i.isCommand

theorem Laws.EncodingSpace.cvtF64 : Laws.EncodingSpace.Statement .cvtF64 := rfl

theorem Laws.EncodingSpace.mul64 : Laws.EncodingSpace.Statement .mul64 := rfl

theorem Laws.EncodingSpace.rd (off : Offset) (width : Nat) : Laws.EncodingSpace.Statement (.rd off width) := rfl

theorem Laws.EncodingSpace.wr (off : Offset) (width : Nat) (value : Word) :
    Laws.EncodingSpace.Statement (.wr off width value) := rfl

end Sys2Proof
end

