-- ==== Sys2Proof/Tests/Slice0.lean ====
section
/-! SUPPORT. The model's own tests: the ill-formed terms, the words of 30_encoding.md written out, one step of each instruction
against 95_test_vectors.md, and for every statement a witness of its hypotheses. -/

namespace Sys2Proof.Tests

open Sys2Proof Sys2Proof.Machine

/-! ### Well-formedness: each check refuses a term -/

theorem test_rd_width_1_ill_formed : (Instr.rd 0x00#6 1).wellFormed = false := by decide
theorem test_wr_width_8_ill_formed : (Instr.wr 0x00#6 8 0#32).wellFormed = false := by decide
theorem test_rd_reserved_offset_well_formed : (Instr.rd 0x3F#6 4).wellFormed = true := by decide

/-! ### Decoding, from words written out bit by bit (30_encoding.md R71, R76) -/

theorem test_decode_cvt_f64 : decodeCmd 0b00000000000000000000000000000001#32 = .instr .cvtF64 := by decide
theorem test_decode_mul64 : decodeCmd 0b00000000000000000000000000000010#32 = .instr .mul64 := by decide
theorem test_decode_illegal_rsvd : decodeCmd 0x00000011#32 = .rejected .illegalCommand := by decide
/-- RD RES_FLAGS: K = 01, OFF = 100100, DATA = 0. -/
theorem test_decode_rd : decodeTw 0b0110010000000000000000000000000000000000#40 = .instr (.rd 0x24#6 4) := by decide
/-- WR @0x02, 0x80000001: K = 10, OFF = 000010. -/
theorem test_decode_wr :
    decodeTw 0b1000001010000000000000000000000000000001#40 = .instr (.wr 0x02#6 4 0x80000001#32) := by decide
theorem test_decode_kind_00 : decodeTw 0x1400000000#40 = .rejected .kindSpellsNoTransaction := by decide
theorem test_decode_kind_11 : decodeTw 0xD400000000#40 = .rejected .kindSpellsNoTransaction := by decide
theorem test_decode_rd_with_data : decodeTw 0x5400000001#40 = .rejected .readCarriesData := by decide
theorem test_table_words :
    decodeTableWord 32 0x00000001 = some .cvtF64 ∧ decodeTableWord 32 0x00000002 = some .mul64 ∧
    decodeTableWord 40 0x4000000000 = some (.rd 0x00#6 4) ∧
    decodeTableWord 40 0x8000000000 = some (.wr 0x00#6 4 0#32) := by decide

/-! ### One step each, against 95_test_vectors.md -/

/-- A state with a command pending, as acceptance leaves STATUS. -/
def pending (v : Word) (a b : DWord) (delay : Nat) (inputs : List HostInput) : State :=
  { State.reset with pend := some ⟨v, a, b⟩, status := statusOnAccept 0#32 v, inputs := inputs, delay := delay }

/-- An idle state with inputs waiting. -/
def idle (inputs : List HostInput) : State := { State.reset with inputs := inputs }

/-- The STATUS, record and answers after a step. -/
def seen : Host.Outcome State Fault Refusal → Option (Word × Record × List Answer)
  | .next s => some (s.status, s.result, s.answers)
  | _ => none

/-- Vector V2: the odd sign, a remainder above one half, no factor. -/
theorem test_cvt_f64_v2 :
    seen (step (pending 1#32 0xC23B2FE21FE1ACB6#64 0#64 0 [])) =
      some (0x00010002#32, ⟨0x0B4C898B#32, 0x00006A33#32, 0x00000000#32, 0x80030000#32⟩, []) := by decide +kernel

/-- Vector V44: the largest binary64 below 2^96, through WIDE. -/
theorem test_cvt_f64_v44 :
    seen (step (pending 1#32 0x45EFFFFFFFFFFFFF#64 0#64 0 [])) =
      some (0x00010002#32, ⟨0x122AC000#32, 0xFFFFDDCF#32, 0xFFFFFFFF#32, 0x00000000#32⟩, []) := by decide +kernel

/-- Vector M16. -/
theorem test_mul64_m16 :
    seen (step (pending 2#32 0x00007048860DDF7A#64 0x00005AF3107A4000#64 0 [])) =
      some (0x00020002#32, ⟨0x98028000#32, 0x46BEE6E5#32, 0x27E41B32#32, 0x00000000#32⟩, []) := by decide +kernel

/-- Vector M7: the smallest overflowing product, with STATUS as H13 has it. -/
theorem test_mul64_m7 :
    seen (step (pending 2#32 0x0001000000000000#64 0x0001000000000000#64 0 [])) =
      some (0x00020102#32, .zero, []) := by decide +kernel

/-- Vector H18: a RD of STATUS is answered at once while a command is pending. -/
theorem test_rd_h18 :
    seen (step (pending 1#32 0#64 0#64 1 [.word 0x5400000000#40])) =
      some (0x00010001#32, .zero, [.data 0x00010001#32]) := by decide

/-- Vector H22: a RD of a reserved offset answers BUSERR at once while a command is pending. -/
theorem test_rd_h22 :
    seen (step (pending 1#32 0#64 0#64 1 [.word 0x6800000000#40])) = some (0x00010001#32, .zero, [.busErr]) := by decide

/-- Vector H10: a write of 1 to CMD. -/
theorem test_wr_h10 :
    seen (step (idle [.word 0x9000000001#40])) = some (0x00010001#32, .zero, [.ack]) := by rfl

/-- Vector H3: a write to STATUS is ignored. -/
theorem test_wr_h3 : seen (step (idle [.word 0x94FFFFFFFF#40])) = some (0#32, .zero, [.ack]) := by decide

/-- Vector H16: an illegal command completes; LASTOP is 1, ERR is ILLEGAL_CMD. -/
theorem test_illegal_h16 : seen (step (pending 0x11#32 0#64 0#64 0 [])) = some (0x00010302#32, .zero, []) := by decide

/-- A word placed by `withFetchWord` is the one the next step performs. -/
theorem test_fetch_word_runs :
    step (State.reset.withFetchWord 32 1) = exec .cvtF64 (State.reset.withFetchWord 32 1) ∧
    step (State.reset.withFetchWord 40 0x5800000000) =
      exec (.rd 0x18#6 4) (State.reset.withFetchWord 40 0x5800000000) := ⟨rfl, rfl⟩

/-! ### Witnesses of the statements' hypotheses -/

theorem witness_DecodeOfEncode : (Instr.wr 0x3F#6 4 0xFFFFFFFF#32).wellFormed = true := by decide

theorem witness_EncodeOfDecode : decode (.tw 0x5400000000#40) = .instr (.rd 0x14#6 4) := by decide

/-- One value for each clause, at the clauses' edges. -/
theorem witness_WholeValueSelectsCommand :
    decodeCmd 1#32 = .instr .cvtF64 ∧ decodeCmd 2#32 = .instr .mul64 ∧ decodeCmd 0#32 = .rejected .illegalCommand ∧
    decodeCmd 3#32 = .rejected .illegalCommand ∧
    ((0x11#32 : Word).extractLsb' 4 28 ≠ 0#28 ∧ decodeCmd 0x11#32 = .rejected .illegalCommand) := by decide

theorem witness_TransactionWordFields :
    (1#32 ≠ 0#32) ∧ ¬((0x28#6 : Offset).toNat % 4 = 0 ∧ (0x28#6 : Offset).toNat ≤ 0x24) ∧
    ¬((0x02#6 : Offset).toNat % 4 = 0 ∧ (0x02#6 : Offset).toNat ≤ 0x24) := by decide

/-- Each of the four expansions, from an idle block. -/
theorem witness_PseudoInstructionsLoadAndIssue (p : Pseudo) :
    (idle (hostProgram p.expand ++ [])).pend = none ∧ (idle (hostProgram p.expand ++ [])).busy = false ∧
    (idle (hostProgram p.expand ++ [])).inputs = hostProgram p.expand ++ [] :=
  ⟨rfl, show statusBusy 0#32 = false by decide, rfl⟩

/-- One input of each form, at the window's last offset where it has one. -/
theorem witness_StepRunsDecodedInstruction_spelled :
    Spells (.word 0x9000000001#40) (.wr 0x10#6 4 1#32) ∧ Spells (.bus 0x3F#6 1 none) (.rd 0x3F#6 1) ∧
    Spells (.bus 0x00#6 4 (some 5#32)) (.wr 0x00#6 4 5#32) ∧
    Spells (.mem (Config.cvtBase + 0x3F) 4 none) (.rd 0x3F#6 4) ∧
    Spells (.mem (Config.cvtBase + 0x00) 4 (some 5#32)) (.wr 0x00#6 4 5#32) :=
  ⟨.word _ _ (by decide), .busRead _ _, .busWrite _ _ _, .memRead 0x3F#6 4, .memWrite 0x00#6 4 5#32⟩

/-- The host's access with nothing pending, the host's access before the delay has run out, and the two turns of the unit. -/
theorem witness_StepRunsDecodedInstruction :
    ((idle [.word 0x9000000001#40]).inputs = [.word 0x9000000001#40] ∧
      decodeTw 0x9000000001#40 = .instr (.wr 0x10#6 4 1#32) ∧ (idle [.word 0x9000000001#40]).pend = none) ∧
    ((pending 1#32 0#64 0#64 1 [.word 0x5400000000#40]).delay ≠ 0 ∧
      (pending 1#32 0#64 0#64 1 [.word 0x5400000000#40]).holds (.rd 0x14#6 4) = false) ∧
    ((pending 1#32 0#64 0#64 0 [.word 0x5400000000#40]).pend = some ⟨1#32, 0#64, 0#64⟩ ∧
      decodeCmd 1#32 = .instr .cvtF64 ∧ (pending 1#32 0#64 0#64 0 [.word 0x5400000000#40]).delay = 0) ∧
    (pending 2#32 0#64 0#64 5 []).inputs = [] := by decide

/-- Both kinds that spell no transaction, a read that carries data, the byte behind the window, and both turns of the host. -/
theorem witness_StepStopsOnNoTransaction :
    ((idle [.word 0x3FFFFFFFFF#40]).pend = none ∧ (0x3FFFFFFFFF#40 : Tw).extractLsb' 38 2 = 0b00#2) ∧
    (0xC000000000#40 : Tw).extractLsb' 38 2 = 0b11#2 ∧
    ((0x4000000001#40 : Tw).extractLsb' 38 2 = 0b01#2 ∧ (0x4000000001#40 : Tw).extractLsb' 0 32 ≠ 0#32) ∧
    ((pending 1#32 0#64 0#64 1 [.mem (Config.cvtBase + 64) 4 none]).delay ≠ 0 ∧
      Config.cvtBase + 64 ≤ Config.cvtBase + 64) :=
  ⟨by decide, by decide, by decide, by simp [pending]⟩

theorem witness_FinalStatesIdle :
    State.reset.final = true ∧ (idle [.word 0x5400000000#40]).final = false ∧ (pending 1#32 0#64 0#64 0 []).final = false := by
  decide

/-- The delay run out, nothing issued, and each clause on the CMD value. -/
theorem witness_CompletionWritesOutcome :
    ((pending 1#32 0#64 0#64 0 [.reset]).pend = some ⟨1#32, 0#64, 0#64⟩ ∧ (pending 1#32 0#64 0#64 0 [.reset]).delay = 0) ∧
    ((pending 2#32 0#64 0#64 9 []).pend = some ⟨2#32, 0#64, 0#64⟩ ∧ (pending 2#32 0#64 0#64 9 []).inputs = []) ∧
    ((pending 3#32 0#64 0#64 0 []).pend = some ⟨3#32, 0#64, 0#64⟩ ∧ (3#32 : Word) ≠ 1#32 ∧ (3#32 : Word) ≠ 2#32) ∧
    State.reset.pend = none := by decide

/-- A held RD at each end of the window and a held WR, with nothing and with another access behind it. -/
theorem witness_HeldAccessWaitsForCompletion :
    ((pending 1#32 0#64 0#64 7 [.bus 0x24#6 4 none]).busy = true ∧
      (pending 1#32 0#64 0#64 7 [.bus 0x24#6 4 none]).pend = some ⟨1#32, 0#64, 0#64⟩ ∧
      inputFetch (.bus 0x24#6 4 none) = .instr (.rd 0x24#6 4) ∧
      inputFetch (.bus 0x00#6 4 none) = .instr (.rd 0x00#6 4) ∧
      (0x24#6 : Offset).toNat % 4 = 0 ∧ (0x24#6 : Offset).toNat ≤ 0x24 ∧ (0x24#6 : Offset).toNat ≠ 0x14) ∧
    inputFetch (.word 0x9400000000#40) = .instr (.wr 0x14#6 4 0#32) ∧
    (∀ later : List HostInput, ([] : List HostInput) ≠ .reset :: later) :=
  ⟨by decide, by decide, by simp⟩

theorem witness_ResultReadAnswersTheCommand :
    (idle [.bus 0x10#6 4 (some 2#32), .bus 0x24#6 4 none]).pend = none ∧
    (idle [.bus 0x10#6 4 (some 2#32), .bus 0x24#6 4 none]).busy = false ∧
    (idle [.bus 0x10#6 4 (some 2#32), .bus 0x24#6 4 none]).inputs =
      .bus 0x10#6 4 (some 2#32) :: .bus 0x24#6 4 none :: [] ∧
    (∀ later : List HostInput, ([] : List HostInput) ≠ .reset :: later) :=
  ⟨by decide, by decide, by decide, by simp⟩

theorem witness_PendingCommandCompletes :
    (pending 1#32 0#64 0#64 2 [.word 0x5400000000#40, .word 0x6800000000#40]).busy = true ∧
    (pending 1#32 0#64 0#64 2 [.word 0x5400000000#40, .word 0x6800000000#40]).pend = some ⟨1#32, 0#64, 0#64⟩ ∧
    (∀ x ∈ [HostInput.word 0x5400000000#40, .word 0x6800000000#40], ∃ i, inputFetch x = .instr i) := by
  refine ⟨by decide, by decide, ?_⟩
  intro x hx
  simp only [List.mem_cons, List.not_mem_nil, or_false] at hx
  rcases hx with rfl | rfl
  exacts [⟨.rd 0x14#6 4, by decide⟩, ⟨.rd 0x28#6 4, by decide⟩]

theorem test_reset_legal : State.reset.Legal := by constructor <;> decide

theorem witness_StepKeepsLegal : State.reset.Legal ∧ step State.reset = .next State.reset := ⟨test_reset_legal, rfl⟩

/-- Idle, busy, the last admitted offset, and one offset for each way of not being admitted. -/
theorem witness_ReadAnswersRegister :
    State.reset.busy = false ∧ (pending 1#32 0#64 0#64 0 []).busy = true ∧
    ((0x24#6 : Offset).toNat % 4 = 0 ∧ (0x24#6 : Offset).toNat ≤ 0x24 ∧ (0x24#6 : Offset).toNat ≠ 0x14) ∧
    ¬(4 = 4 ∧ (0x28#6 : Offset).toNat % 4 = 0 ∧ (0x28#6 : Offset).toNat ≤ 0x24) ∧
    ¬(4 = 4 ∧ (0x01#6 : Offset).toNat % 4 = 0 ∧ (0x01#6 : Offset).toNat ≤ 0x24) ∧
    ¬(8 = 4 ∧ (0x00#6 : Offset).toNat % 4 = 0 ∧ (0x00#6 : Offset).toNat ≤ 0x24) := by decide

theorem witness_WriteReachesRegister :
    State.reset.busy = false ∧ (pending 1#32 0#64 0#64 0 []).busy = true ∧
    ((0x00#6 : Offset).toNat % 4 = 0 ∧ (0x00#6 : Offset).toNat ≤ 0x24) ∧
    ¬(1 = 4 ∧ (0x24#6 : Offset).toNat % 4 = 0 ∧ (0x24#6 : Offset).toNat ≤ 0x24) := by decide

/-- One access of each clause, at the edge between them. -/
theorem witness_BusErrorChangesNothing :
    ¬(4 = 4 ∧ (0x28#6 : Offset).toNat % 4 = 0 ∧ (0x28#6 : Offset).toNat ≤ 0x24) ∧
    (4 = 4 ∧ (0x24#6 : Offset).toNat % 4 = 0 ∧ (0x24#6 : Offset).toNat ≤ 0x24) := by decide

/-- A held read, a read of STATUS while a command is pending, and a read that is not admitted. -/
theorem witness_ReadsChangeNothing :
    (admitted 0x24#6 4 && (pending 1#32 0#64 0#64 0 []).holdsRead 0x24#6) = true ∧
    ¬(admitted 0x14#6 4 && (pending 1#32 0#64 0#64 0 []).holdsRead 0x14#6) = true ∧
    ¬(admitted 0x28#6 4 && (pending 1#32 0#64 0#64 0 []).holdsRead 0x28#6) = true := by decide

theorem witness_WritesChangeOneRegister :
    State.reset.busy = false ∧ (0x24#6 : Offset) ∈ [0x14#6, 0x18#6, 0x1C#6, 0x20#6, 0x24#6] := by decide

theorem witness_OperandsReadBack :
    State.reset.busy = false ∧ (0x0C#6 : Offset) ∈ [0x00#6, 0x04#6, 0x08#6, 0x0C#6] ∧
    exec .mul64 (pending 2#32 0#64 0#64 0 []) = .next ((pending 2#32 0#64 0#64 0 []).complete (mul64 0#64 0#64)) ∧
    exec .cvtF64 (pending 1#32 0#64 0#64 0 []) = .next ((pending 1#32 0#64 0#64 0 []).complete (cvt 0#64)) :=
  ⟨by decide, by decide, rfl, rfl⟩

theorem witness_AcceptanceLatchesOperands : State.reset.pend = none ∧ State.reset.busy = false := by decide

theorem witness_StatusWordEncoding : statusReserved (pending 2#32 0#64 0#64 0 []).status = 0#32 := by decide

theorem witness_RecordByteImage : 0 < 16 ∧ 15 < 16 := by decide

theorem witness_OperandByteImage : 0 < 8 ∧ 7 < 8 ∧ 0x28 ≤ 0x28 ∧ 0x28 ≤ 0x40 := by decide

/-- The smallest product that overflows, and the operand bounds of the laws. -/
theorem witness_WideProductExact : (wide 0x0001000000000000#64 0x0001000000000000#64).2 = true := by decide +kernel

theorem witness_WideLaws :
    (1#64 : DWord) ≠ 0#64 ∧ (0xFFFFFFFF#64 : DWord).toNat < 2 ^ 32 ∧
    2 ^ 96 ≤ (0x0001000000000000#64 : DWord).toNat * (0x0001000000000000#64 : DWord).toNat := by decide +kernel

/-- A product just below 2^96 and one that is 2^96. -/
theorem witness_MultiplyCompletes :
    (pending 2#32 0xFFFFFFFFFFFFFFFF#64 0x100000000#64 0 []).pend = some ⟨2#32, 0xFFFFFFFFFFFFFFFF#64, 0x100000000#64⟩ ∧
    (0xFFFFFFFFFFFFFFFF#64 : DWord).toNat * (0x100000000#64 : DWord).toNat < 2 ^ 96 ∧
    2 ^ 96 ≤ (0x8000000000000000#64 : DWord).toNat * (0x200000000#64 : DWord).toNat := by decide +kernel

/-- A command that ends without error and one that ends with one. -/
theorem witness_ConvertCompletes :
    (pending 1#32 0x3FF0000000000000#64 0#64 0 []).pend = some ⟨1#32, 0x3FF0000000000000#64, 0#64⟩ ∧
    (cvt 0x3FF0000000000000#64).code.bits = 0#3 ∧ (cvt 0x7FF0000000000000#64).code.bits ≠ 0#3 := by decide +kernel

/-- The exponent fields at every edge between the classes, and both cases of E = 928. -/
theorem witness_OutcomeClasses :
    expField 0x39FFFFFFFFFFFFFF#64 = 927 ∧ expField 0x3A00000000000000#64 = 928 ∧
    (scaleMagnitude (magnitude (abs64 0x3A00000000000000#64)) (-94)).d ≤ half ∧
    expField 0x3A0FFFFFFFFFFFFF#64 = 928 ∧ half < (scaleMagnitude (magnitude (abs64 0x3A0FFFFFFFFFFFFF#64)) (-94)).d ∧
    expField 0x3A10000000000000#64 = 929 ∧ expField 0x45EFFFFFFFFFFFFF#64 = 1118 ∧
    expField 0x45F0000000000000#64 = 1119 ∧ expField 0x7FEFFFFFFFFFFFFF#64 = 2046 ∧
    expField 0xFFF0000000000000#64 = 2047 := by decide +kernel

/-- Both ends of the range, and a working scale below 0, of 28 and between. -/
theorem witness_ConverterRanges :
    expField 0x3A00000000000000#64 = 928 ∧ expField 0x45EFFFFFFFFFFFFF#64 = 1118 ∧
    (scaleMagnitude (magnitude (abs64 0x45EFFFFFFFFFFFFF#64)) (cvtExp 0x45EFFFFFFFFFFFFF#64)).power = -14 ∧
    (scaleMagnitude (magnitude (abs64 0x3A00000000000000#64)) (cvtExp 0x3A00000000000000#64)).power = 28 ∧
    (scaleMagnitude (magnitude (abs64 0x3FF0000000000000#64)) (cvtExp 0x3FF0000000000000#64)).power = 14 := by decide +kernel

theorem witness_OutcomeDependsOnOperandAlone :
    (pending 1#32 5#64 0#64 0 []).pend = some ⟨1#32, 5#64, 0#64⟩ ∧
    (pending 1#32 5#64 9#64 3 [.reset]).pend = some ⟨1#32, 5#64, 9#64⟩ := by decide

theorem witness_InvalidInputExactly : expField 0x7FF8000000000000#64 = 2047 := by decide

/-- An input below the exponent bound, and one whose mantissa rounds to 0 (vector V21). -/
theorem witness_UnderflowIsNoError :
    (pending 1#32 0x3A0FB0F6BE506019#64 0#64 0 []).pend = some ⟨1#32, 0x3A0FB0F6BE506019#64, 0#64⟩ ∧
    cvtExp 0x39FFFFFFFFFFFFFF#64 < -94 ∧ cvtExp 0x3A0FB0F6BE506019#64 = -94 ∧
    roundMantissa (scaleMagnitude (magnitude (abs64 0x3A0FB0F6BE506019#64)) (cvtExp 0x3A0FB0F6BE506019#64)).d = 0 := by
  decide +kernel

theorem witness_ExponentBoundsMagnitude :
    expField 0x0010000000000000#64 = 1 ∧ expField 0x7FEFFFFFFFFFFFFF#64 = 2046 ∧
    cvtExp 0x3A00000000000000#64 = -94 ∧ cvtExp 0x45EFFFFFFFFFFFFF#64 = 96 := by decide

theorem witness_ScaleEstimateRange :
    scaleEstimate (-94) = 43 ∧ scaleEstimate 96 = -14 ∧ scaleEstimate 50 = -1 ∧ scaleEstimate 53 = -1 ∧
    scaleEstimate (-47) = 29 ∧ scaleEstimate (-46) = 28 := by decide

/-- A tie: 2.5. -/
theorem witness_MantissaRoundsHalfToEven : IsF64 (5 * 2 ^ 1073) ∧ 5 * 2 ^ 1073 < toF64 (10 ^ 15) :=
  ⟨⟨5, 1073, by norm_num, rfl⟩, by decide +kernel⟩

/-- p = 9 and 10, and the smallest mantissa that overflows at p = 14. -/
theorem witness_WidenMultipliesExactly :
    roundMantissa (Scaled.mk (toF64 (10 ^ 14)) (-9)).d = 10 ^ 14 ∧ (10 ^ 14 : Nat) * 10 ^ 10 < 2 ^ 96 ∧
    roundMantissa (Scaled.mk (toF64 792281625142644) (-14)).d = 792281625142644 ∧
    2 ^ 96 ≤ 792281625142644 * 10 ^ 14 := by decide +kernel

/-- Each case of the scaling at its edge: 0.5 is multiplied and renormalised, 5e-29 is clamped, 999999999999999.9 is kept at
power0 = -1, 1e15 is divided there, and 1e16 is divided at power0 = -2 (the examples of 40_convert.md R109, R110, R113). -/
theorem witness_ScalingFollowsEstimate :
    scaleMagnitude (magnitude 0x3FE0000000000000#64) (cvtExp 0x3FE0000000000000#64) = ⟨toF64 (5 * 10 ^ 14), 15⟩ ∧
    scaleEstimate (cvtExp 0x3A0FB0F6BE506019#64) = 43 ∧
    (scaleEstimate (cvtExp 0x430C6BF52633FFFF#64) = -1 ∧
      scaleMagnitude (magnitude 0x430C6BF52633FFFF#64) (cvtExp 0x430C6BF52633FFFF#64) =
        ⟨magnitude 0x430C6BF52633FFFF#64, 0⟩) ∧
    (scaleEstimate (cvtExp 0x430C6BF526340000#64) = -1 ∧
      scaleMagnitude (magnitude 0x430C6BF526340000#64) (cvtExp 0x430C6BF526340000#64) = ⟨toF64 (10 ^ 14), -1⟩) ∧
    scaleMagnitude (magnitude 0x4341C37937E08000#64) (cvtExp 0x4341C37937E08000#64) = ⟨toF64 (10 ^ 14), -2⟩ ∧
    expField 0x3A0FB0F6BE506019#64 = 928 ∧ expField 0x45EFFFFFFFFFFFFF#64 = 1118 := by decide +kernel

/-- R114's example 0.25: a k that comes off, a k whose power does not divide, and headroom left at the end. -/
theorem witness_FactoringKeepsValue :
    (0 : ℤ) ≤ 15 ∧ ((8 : Nat) : ℤ) ≤ (14 : ℤ) ∧ 10 ^ 8 ∣ 250000000000000 ∧ ¬10 ^ 2 ∣ 250 ∧
    15 - (factor 250000000000000 15).power < min 15 14 ∧ (factor 250000000000000 15).power = 2 ∧
    roundMantissa (Scaled.mk (toF64 250000000000000) 15).d = 250000000000000 ∧
    roundMantissa (Scaled.mk half 28).d = 0 := by decide +kernel

/-- Vector V2's twins, and the largest magnitude whose mantissa is 0 (vector V21). -/
theorem witness_SignOnlyInFlags :
    255 < 256 ∧ 2 ^ 96 - 1 < 2 ^ 96 ∧ (cvt (abs64 0xC23B2FE21FE1ACB6#64)).record.mantissa ≠ 0#96 ∧
    (cvt 0xC23B2FE21FE1ACB6#64).record.mantissa ≠ 0#96 ∧
    (cvt (abs64 0xBA0FB0F6BE506019#64)).record.mantissa = 0#96 := by decide +kernel

/-- A negative normal pattern, the largest subnormal, both infinities, and a NaN. -/
theorem witness_PatternValue :
    (0 < expField 0xBFF0000000000000#64 ∧ expField 0xBFF0000000000000#64 < 2047 ∧
      f64val 0xBFF0000000000000#64 = .finite (-(2 ^ 1074))) ∧
    (expField 0x800FFFFFFFFFFFFF#64 = 0 ∧ f64val 0x800FFFFFFFFFFFFF#64 = .finite (1 - 2 ^ 52)) ∧
    (expField 0x7FF0000000000000#64 = 2047 ∧ fracField 0x7FF0000000000000#64 = 0) ∧
    f64val 0xFFF0000000000000#64 = .infinity true ∧
    (expField 0x7FF8000000000000#64 = 2047 ∧ fracField 0x7FF8000000000000#64 ≠ 0) := by decide +kernel

theorem witness_RoundingIsNearestTiesToEven : 0 < 1 ∧ (3 : Nat) ≤ 3 := by decide

theorem witness_RoundingExactAndMonotone :
    IsF64 (2 ^ 53 - 1) ∧ 1 * 3 ≤ 1 * 3 ∧ 2 ^ 53 - 1 < 2 ^ 53 :=
  ⟨⟨2 ^ 53 - 1, 0, by norm_num, by norm_num⟩, by norm_num, by norm_num⟩

theorem witness_IllegalCommandCompletes :
    (0#32 : Word) ≠ 1#32 ∧ (0#32 : Word) ≠ 2#32 ∧ (idle [.bus 0x10#6 4 (some 0#32)]).pend = none ∧
    (idle [.bus 0x10#6 4 (some 0#32)]).busy = false ∧
    (idle [.bus 0x10#6 4 (some 0#32)]).inputs = [.bus 0x10#6 4 (some 0#32)] := by decide

/-- An error, a write that is no write to CMD, and one to the CMD offset of another width. -/
theorem witness_ErrorLeavesNoPartialResult :
    (fail .overflow).code ≠ .none ∧ (0x14#6 : Offset).toNat ≠ 0x10 ∧ 1 ≠ 4 := by decide

/-- Reset with nothing pending, reset while a command is pending, reset while an access is held, and reset while one is in
progress: a RD of STATUS with a command pending, and a WR of OPA_LO on an idle block. -/
theorem witness_ResetDiscardsPendingCommand :
    ((idle [.reset]).inputs = .reset :: [] ∧ (idle [.reset]).pend = none) ∧
    ((pending 1#32 0#64 0#64 1 [.reset]).inputs = .reset :: [] ∧ (pending 1#32 0#64 0#64 1 [.reset]).delay ≠ 0) ∧
    ((pending 1#32 0#64 0#64 1 [.bus 0x00#6 4 none, .reset]).inputs = .bus 0x00#6 4 none :: .reset :: [] ∧
      inputFetch (.bus 0x00#6 4 none) = .instr (.rd 0x00#6 4) ∧
      (pending 1#32 0#64 0#64 1 [.bus 0x00#6 4 none, .reset]).holds (.rd 0x00#6 4) = true) ∧
    (pending 1#32 0#64 0#64 1 [.resetInAccess 0x14#6 4 none]).delay ≠ 0 ∧
    (idle [.resetInAccess 0x00#6 4 (some 7#32)]).pend = none := by decide

/-- A write cut off by reset: no answer, and the operand keeps its reset value (70_reset_and_hazards.md R211). -/
theorem test_write_cut_off_by_reset :
    step { idle [.resetInAccess 0x00#6 4 (some 7#32), .bus 0x00#6 4 none] with opaLo := 9#32 } =
      .next (idle [.bus 0x00#6 4 none]) := rfl

theorem witness_CommandsRightAfterReset : (1#32 : Word) = 1#32 ∧ (2#32 : Word) = 2#32 := by decide

end Sys2Proof.Tests
end

section
/-! O44 (00_scope.md R10). The fields of a pattern as quotients and remainders, one equation per class of pattern for
`f64val` and for `magnitude`, and what `abs64` does to each. -/

namespace Sys2Proof.Machine

/-! ### The fields as numbers -/

theorem expField_eq_div_mod (a : DWord) : expField a = a.toNat / 2 ^ 52 % 2 ^ 11 := by
  rw [expField, BitVec.extractLsb'_toNat, Nat.shiftRight_eq_div_pow]

theorem fracField_eq_mod (a : DWord) : fracField a = a.toNat % 2 ^ 52 := by
  rw [fracField, BitVec.extractLsb'_toNat, Nat.shiftRight_zero]

theorem toNat_abs64 (a : DWord) : (abs64 a).toNat = a.toNat % 2 ^ 63 := by
  rw [abs64, BitVec.toNat_append]
  simp

/-! ### The value of each class of pattern -/

theorem magnitude_of_normal (a : DWord) (h : 0 < expField a) :
    magnitude a = (2 ^ 52 + fracField a) * 2 ^ (expField a - 1) :=
  if_neg h.ne'

theorem magnitude_of_subnormal (a : DWord) (h : expField a = 0) : magnitude a = fracField a :=
  if_pos h

theorem f64val_of_finite (a : DWord) (h : expField a ≠ 2047) :
    f64val a = .finite ((-1) ^ (signBit a).toNat * magnitude a) := by
  rw [f64val, if_neg h]
  cases signBit a <;> simp

theorem f64val_of_infinity (a : DWord) (hE : expField a = 2047) (hF : fracField a = 0) :
    f64val a = .infinity (signBit a) := by
  rw [f64val, if_pos hE, if_pos hF]

theorem f64val_of_nan (a : DWord) (hE : expField a = 2047) (hF : fracField a ≠ 0) : f64val a = .nan := by
  rw [f64val, if_pos hE, if_neg hF]

theorem f64val_of_normal (a : DWord) (hpos : 0 < expField a) (hlt : expField a < 2047) :
    f64val a = .finite ((-1) ^ (signBit a).toNat * ((2 ^ 52 + fracField a) * 2 ^ (expField a - 1))) := by
  rw [f64val_of_finite a hlt.ne, magnitude_of_normal a hpos]
  push_cast
  rfl

theorem f64val_of_subnormal (a : DWord) (h : expField a = 0) :
    f64val a = .finite ((-1) ^ (signBit a).toNat * fracField a) := by
  rw [f64val_of_finite a (by omega), magnitude_of_subnormal a h]

/-! ### Which class a value comes from, and what `abs64` makes of it -/

theorem expField_of_f64val_finite {a : DWord} {x : ℤ} (h : f64val a = .finite x) : expField a ≠ 2047 := by
  intro hE
  by_cases hF : fracField a = 0
  · simp [f64val_of_infinity a hE hF] at h
  · simp [f64val_of_nan a hE hF] at h

theorem fields_of_f64val_infinity {a : DWord} {negative : Bool} (h : f64val a = .infinity negative) :
    expField a = 2047 ∧ fracField a = 0 := by
  have hE : expField a = 2047 := by
    by_contra hE
    simp [f64val_of_finite a hE] at h
  refine ⟨hE, ?_⟩
  by_contra hF
  simp [f64val_of_nan a hE hF] at h

theorem f64val_abs64_of_finite {a : DWord} {x : ℤ} (h : f64val a = .finite x) : f64val (abs64 a) = .finite |x| := by
  have hE := expField_of_f64val_finite h
  rw [f64val_of_finite a hE, F64Value.finite.injEq] at h
  rw [f64val_abs64 a hE, magnitude_abs64, ← h]
  simp [abs_mul]

theorem f64val_abs64_of_infinity {a : DWord} {negative : Bool} (h : f64val a = .infinity negative) :
    f64val (abs64 a) = .infinity false := by
  obtain ⟨hE, hF⟩ := fields_of_f64val_infinity h
  rw [f64val_of_infinity (abs64 a) (by rwa [expField_abs64]) (by rwa [fracField_abs64]), signBit_abs64]

/-- Settles O44: each clause is the lemma above for its class of pattern. -/
theorem patternValue : Obligations.PatternValue := fun a =>
  ⟨rfl, expField_eq_div_mod a, fracField_eq_mod a, f64val_of_normal a, f64val_of_subnormal a, f64val_of_infinity a,
    f64val_of_nan a, toNat_abs64 a, fun _ => f64val_abs64_of_finite, fun _ => f64val_abs64_of_infinity⟩

end Sys2Proof.Machine
end

section
/-! O47 and O48 (10_state.md R29 to R31). A table entry is the function the table lists. Entry k of T_D is `10 ^ k * unit`
rounded; since rounding commutes with powers of two, that is the value of the integer `rne (10 ^ k) 1`, so that an entry is
found without the big constant `unit`. -/

namespace Sys2Proof.Machine

/-! ### The entries of the tables -/

theorem getD_map_range {α : Type} (f : Nat → α) (d : α) {n k : Nat} (hk : k < n) :
    ((List.range n).map f).getD k d = f k := by
  simp [List.getD_eq_getElem?_getD, hk]

theorem powD_eq_rne {k : Nat} (hk : k < 81) : powD k = rne (10 ^ k * unit) 1 := getD_map_range _ _ hk

theorem powU64_eq_ofNat {k : Nat} (hk : k < 20) : powU64 k = BitVec.ofNat 64 (10 ^ k) := getD_map_range _ _ hk

theorem powU32_eq_ofNat {k : Nat} (hk : k < 10) : powU32 k = BitVec.ofNat 32 (10 ^ k) := getD_map_range _ _ hk

/-! ### The integer tables: no entry wraps -/

/-- Powers of ten up to the largest that fits in the word do not wrap. -/
theorem toNat_ofNat_ten_pow {w m k : Nat} (hm : 10 ^ m < 2 ^ w) (hk : k ≤ m) :
    (BitVec.ofNat w (10 ^ k)).toNat = 10 ^ k := by
  rw [BitVec.toNat_ofNat]
  exact Nat.mod_eq_of_lt ((Nat.pow_le_pow_right (by norm_num) hk).trans_lt hm)

theorem toNat_powU64 {k : Nat} (hk : k < 20) : (powU64 k).toNat = 10 ^ k := by
  rw [powU64_eq_ofNat hk]
  exact toNat_ofNat_ten_pow (m := 19) (by norm_num) (by omega)

theorem toNat_powU32 {k : Nat} (hk : k < 10) : (powU32 k).toNat = 10 ^ k := by
  rw [powU32_eq_ofNat hk]
  exact toNat_ofNat_ten_pow (m := 9) (by norm_num) (by omega)

/-- Settles O48: the lengths of the two tables, and their entries without wrapping. -/
theorem integerTables : Obligations.IntegerTables := by
  refine ⟨?_, fun _ => toNat_powU64, ?_, fun _ => toNat_powU32⟩
  · simp [tableU64]
  · simp [tableU32]

/-! ### Rounding to binary64: exact values and powers of two -/

theorem rne_of_spacing_dvd {x : Nat} (h : spacing x 1 ∣ x) : rne x 1 = x := by
  obtain ⟨q, hq⟩ := h
  rw [rne, Nat.one_mul]
  generalize hs : spacing x 1 = s at *
  have hpos : 0 < s := hs ▸ spacing_pos x 1
  rw [hq, Nat.mul_comm s q, roundNearestEven_exact q s hpos]

/-- A binary64 value rounds to itself: `m * 2 ^ e` with m below 2^53 has a spacing of at most `2 ^ e`. -/
theorem rne_of_isF64 {x : Nat} (h : IsF64 x) : rne x 1 = x := by
  obtain ⟨m, e, hm, rfl⟩ := h
  apply rne_of_spacing_dvd
  have hlt : m * 2 ^ e < 2 ^ (53 + e) := by
    rw [pow_add]
    exact Nat.mul_lt_mul_of_pos_right hm (by positivity)
  have hlog : (m * 2 ^ e).log2 < 53 + e := by
    rw [Nat.log2_eq_log_two]
    exact Nat.log_lt_of_lt_pow' (by omega) hlt
  rw [spacing, Nat.div_one]
  exact (pow_dvd_pow 2 (by omega)).mul_left m

theorem roundNearestEven_mul_right (num den : Nat) {c : Nat} (hc : 0 < c) :
    roundNearestEven (num * c) (den * c) = roundNearestEven num den := by
  have lt_iff : den * c < 2 * (num % den * c) ↔ den < 2 * (num % den) := by
    rw [← Nat.mul_assoc, Nat.mul_lt_mul_right hc]
  have eq_iff : 2 * (num % den * c) = den * c ↔ 2 * (num % den) = den := by
    rw [← Nat.mul_assoc, Nat.mul_right_cancel_iff hc]
  simp only [roundNearestEven, Nat.mul_div_mul_right _ _ hc, Nat.mul_mod_mul_right, lt_iff, eq_iff]

theorem log2_mul_two_pow {n : Nat} (j : Nat) (hn : n ≠ 0) : (n * 2 ^ j).log2 = n.log2 + j := by
  have hpow : 0 < 2 ^ j := by positivity
  rw [Nat.log2_eq_iff (Nat.mul_ne_zero hn hpow.ne'), Nat.add_right_comm, pow_add, pow_add]
  exact ⟨Nat.mul_le_mul_right _ (Nat.log2_self_le hn), Nat.mul_lt_mul_of_pos_right Nat.lt_log2_self hpow⟩

theorem spacing_mul_two_pow {n : Nat} (j : Nat) (hn : 2 ^ 52 ≤ n) :
    spacing (n * 2 ^ j) 1 = spacing n 1 * 2 ^ j := by
  have hlog : 52 ≤ n.log2 := (Nat.le_log2 (by omega)).mpr hn
  rw [spacing, spacing, Nat.div_one, Nat.div_one, log2_mul_two_pow j (by omega), Nat.sub_add_comm hlog, pow_add]

/-- Rounding an integer commutes with a power of two: below 2^52 both sides are exact, from there on the spacing scales. -/
theorem rne_mul_two_pow (n j : Nat) : rne (n * 2 ^ j) 1 = rne n 1 * 2 ^ j := by
  rcases Nat.lt_or_ge n (2 ^ 52) with hlt | hge
  · have hn : n < 2 ^ 53 := hlt.trans (by norm_num)
    rw [rne_of_isF64 ⟨n, j, hn, rfl⟩, rne_of_isF64 ⟨n, 0, hn, by simp⟩]
  · rw [rne, rne, spacing_mul_two_pow j hge, Nat.one_mul, Nat.one_mul,
      roundNearestEven_mul_right _ _ (by positivity), Nat.mul_assoc]

/-! ### T_D: exact up to 10^22, and the rows R29 lists -/

theorem powD_eq_toF64 {k : Nat} (hk : k < 81) : powD k = toF64 (rne (10 ^ k) 1) := by
  rw [powD_eq_rne hk, toF64, unit, rne_mul_two_pow]

theorem isF64_ten_pow {k : Nat} (hk : k < 23) : IsF64 (10 ^ k) := by
  refine ⟨5 ^ k, k, ?_, by rw [← Nat.mul_pow]⟩
  calc 5 ^ k ≤ 5 ^ 22 := Nat.pow_le_pow_right (by norm_num) (by omega)
    _ < 2 ^ 53 := by norm_num

theorem powD_exact {k : Nat} (hk : k < 23) : powD k = 10 ^ k * unit := by
  rw [powD_eq_toF64 (by omega), rne_of_isF64 (isF64_ten_pow hk), toF64]

/-- A pattern of at least 1 whose `1.F * 2 ^ (E - 1023)` is the integer n has the value n (00_scope.md R10). -/
theorem magnitude_eq_toF64 {a : DWord} {n : Nat} (hE : 1023 ≤ expField a)
    (h : (2 ^ 52 + fracField a) * 2 ^ (expField a - 1023) = n * 2 ^ 52) : magnitude a = toF64 n := by
  have hexp : expField a - 1 + 52 = (expField a - 1023) + 1074 := by omega
  apply Nat.eq_of_mul_eq_mul_right (show 0 < 2 ^ 52 by norm_num)
  calc magnitude a * 2 ^ 52
      = (2 ^ 52 + fracField a) * 2 ^ (expField a - 1 + 52) := by
        rw [magnitude_of_normal a (by omega), Nat.mul_assoc, ← pow_add]
    _ = (2 ^ 52 + fracField a) * 2 ^ (expField a - 1023) * unit := by rw [hexp, pow_add, unit, Nat.mul_assoc]
    _ = toF64 n * 2 ^ 52 := by rw [h, toF64, Nat.mul_right_comm]

/-- A row of R29's table: an index, the bit pattern of that entry, and its exact value. -/
structure TableDRow where
  index : Nat
  pattern : DWord
  value : Nat

/-- The rows of R29's table. -/
def tableDRows : List TableDRow :=
  [⟨0, 0x3FF0000000000000#64, 1⟩,
   ⟨1, 0x4024000000000000#64, 10⟩,
   ⟨14, 0x42D6BCC41E900000#64, 10 ^ 14⟩,
   ⟨15, 0x430C6BF526340000#64, 10 ^ 15⟩,
   ⟨20, 0x4415AF1D78B58C40#64, 10 ^ 20⟩,
   ⟨21, 0x444B1AE4D6E2EF50#64, 10 ^ 21⟩,
   ⟨22, 0x4480F0CF064DD592#64, 10 ^ 22⟩,
   ⟨23, 0x44B52D02C7E14AF6#64, 99999999999999991611392⟩,
   ⟨24, 0x44EA784379D99DB4#64, 999999999999999983222784⟩,
   ⟨25, 0x45208B2A2C280291#64, 10000000000000000905969664⟩,
   ⟨26, 0x4554ADF4B7320335#64, 100000000000000004764729344⟩,
   ⟨27, 0x4589D971E4FE8402#64, 1000000000000000013287555072⟩,
   ⟨28, 0x45C027E72F1F1281#64, 9999999999999999583119736832⟩]

/-- Each row's value is the power of ten rounded. -/
theorem rne_ten_pow_of_mem_tableDRows :
    ∀ r ∈ tableDRows, r.index < 81 ∧ rne (10 ^ r.index) 1 = r.value := by decide

/-- Each row's pattern spells its value. -/
theorem pattern_of_mem_tableDRows :
    ∀ r ∈ tableDRows, 1023 ≤ expField r.pattern ∧
      (2 ^ 52 + fracField r.pattern) * 2 ^ (expField r.pattern - 1023) = r.value * 2 ^ 52 := by decide

theorem powD_eq_value {r : TableDRow} (hr : r ∈ tableDRows) : powD r.index = toF64 r.value := by
  obtain ⟨hk, hv⟩ := rne_ten_pow_of_mem_tableDRows r hr
  rw [powD_eq_toF64 hk, hv]

theorem magnitude_pattern_eq_value {r : TableDRow} (hr : r ∈ tableDRows) : magnitude r.pattern = toF64 r.value := by
  obtain ⟨hE, hv⟩ := pattern_of_mem_tableDRows r hr
  exact magnitude_eq_toF64 hE hv

/-- R29's table read by columns: the entries are the values of the patterns. -/
theorem map_powD_index_eq_map_magnitude_pattern :
    (tableDRows.map TableDRow.index).map powD = (tableDRows.map TableDRow.pattern).map magnitude := by
  rw [List.map_map, List.map_map]
  exact List.map_congr_left fun r hr => (powD_eq_value hr).trans (magnitude_pattern_eq_value hr).symm

/-- R29's table read by columns, from any of its rows on: the entries are the listed values. -/
theorem map_powD_index_eq_map_toF64_value (n : Nat) :
    ((tableDRows.drop n).map TableDRow.index).map powD = ((tableDRows.drop n).map TableDRow.value).map toF64 := by
  rw [List.map_map, List.map_map]
  exact List.map_congr_left fun r hr => powD_eq_value (List.mem_of_mem_drop hr)

/-- Settles O47: the entries as they are defined, the exact ones, the rows of R29's table, and those of them whose entry is
not exact (the rows after the first seven). -/
theorem doubleTable : Obligations.DoubleTable := by
  refine ⟨?_, fun _ => powD_eq_rne, fun _ => powD_exact, map_powD_index_eq_map_magnitude_pattern,
    map_powD_index_eq_map_toF64_value 7⟩
  simp [tableD]

end Sys2Proof.Machine
end

section
/-! O24 (20_memory.md R53). The bytes of one register of the window, and how the image of a concatenation follows from the
images of its two parts; the record's image is four registers put together. -/

namespace Sys2Proof.Machine

/-- The n bytes of the window from a base on are the little-endian image of x (20_memory.md R53, R54). -/
def State.HoldsImage (s : State) (base n : Nat) {w : Nat} (x : BitVec w) : Prop :=
  ∀ i < n, s.windowByte (base + i) = some (x.extractLsb' (8 * i) 8)

/-- An offset of the window is looked up as its word's register and its byte in that word. -/
theorem State.windowByte_register (s : State) (r : Reg) {k : Nat} (hk : k < 4) :
    s.windowByte (r.offset.toNat + k) = some ((s.readReg r).extractLsb' (8 * k) 8) := by
  obtain ⟨haligned, hle⟩ := (regAt_isSome_iff r.offset).mp (by simp [regAt_offset])
  have hin : r.offset.toNat + k < Config.windowSize := by simp only [Config.windowSize]; omega
  have hword : (r.offset.toNat + k) / 4 * 4 = r.offset.toNat := by omega
  have hbyte : (r.offset.toNat + k) % 4 * 8 = 8 * k := by omega
  rw [State.windowByte, if_pos hin, hword, hbyte, BitVec.ofNat_toNat, BitVec.setWidth_eq, regAt_offset, Option.map_some]

theorem State.holdsImage_register (s : State) (r : Reg) : s.HoldsImage r.offset.toNat 4 (s.readReg r) :=
  fun _ hi => s.windowByte_register r hi

/-- The word of the lower offset is the low part of a concatenation (20_memory.md R53). -/
theorem State.HoldsImage.append {s : State} {base n w : Nat} {hi : BitVec w} {lo : Word}
    (hlo : s.HoldsImage base 4 lo) (hhi : s.HoldsImage (base + 4) n hi) : s.HoldsImage base (n + 4) (hi ++ lo) := by
  intro i hin
  rcases Nat.lt_or_ge i 4 with hlow | hhigh
  · rw [hlo i hlow, BitVec.extractLsb'_append_eq_of_add_le (by omega)]
  · obtain ⟨j, rfl⟩ := Nat.exists_eq_add_of_le hhigh
    rw [← Nat.add_assoc, hhi j (by omega), BitVec.extractLsb'_append_eq_of_le (by omega)]
    congr 2
    omega

/-- Settles O24: the image of the record is put together from RES_LO up to RES_FLAGS. -/
theorem recordByteImage : Obligations.RecordByteImage := by
  intro s
  have hflags : s.HoldsImage 0x24 4 s.resFlags := s.holdsImage_register .resFlags
  have hhi : s.HoldsImage 0x20 8 (s.resFlags ++ s.resHi) := .append (s.holdsImage_register .resHi) hflags
  have hmid : s.HoldsImage 0x1C 12 (s.resFlags ++ s.resHi ++ s.resMid) := .append (s.holdsImage_register .resMid) hhi
  have hlo : s.HoldsImage 0x18 16 (s.resFlags ++ s.resHi ++ s.resMid ++ s.resLo) :=
    .append (s.holdsImage_register .resLo) hmid
  exact hlo

end Sys2Proof.Machine
end

section
/-! O20 (20_memory.md R58). One rule for every register: a write that is not held is answered ACK and leaves the registers as
`State.writeReg` does. Each clause reads off that rule what `writeReg` does to its register. -/

namespace Sys2Proof.Machine

/-! ### What follows where the registers are the same -/

theorem SameRegisters.busy_eq {s t : State} (h : SameRegisters s t) : t.busy = s.busy := by
  rw [State.busy, h.status, State.busy]

theorem SameRegisters.opa_eq {s t : State} (h : SameRegisters s t) : t.opa = s.opa := by
  rw [State.opa, h.opaHi, h.opaLo, State.opa]

theorem SameRegisters.opb_eq {s t : State} (h : SameRegisters s t) : t.opb = s.opb := by
  rw [State.opb, h.opbHi, h.opbLo, State.opb]

theorem SameRegisters.result_eq {s t : State} (h : SameRegisters s t) : t.result = s.result := by
  rw [State.result, h.resLo, h.resMid, h.resHi, h.resFlags, State.result]

theorem SameRegisters.readReg_eq {s t : State} (h : SameRegisters s t) (r : Reg) : t.readReg r = s.readReg r := by
  cases r
  exacts [h.opaLo, h.opaHi, h.opbLo, h.opbHi, rfl, h.status, h.resLo, h.resMid, h.resHi, h.resFlags]

/-! ### The rule of a write -/

/-- A register write does not touch the host's side. -/
theorem State.writeReg_answered (s : State) (r : Reg) (v : Word) (a : Answer) :
    Answered s ((s.respond a).writeReg r v) a := by
  cases r <;> exact ⟨rfl, rfl⟩

/-- What a write does to the registers does not depend on the host's side. -/
theorem State.sameRegisters_writeReg_respond (s : State) (r : Reg) (v : Word) (a : Answer) :
    SameRegisters (s.writeReg r v) ((s.respond a).writeReg r v) := by
  cases r <;> constructor <;> rfl

theorem exec_wr_register (s : State) (r : Reg) (v : Word) (hb : s.busy = false) :
    ∃ t, exec (.wr r.offset 4 v) s = .next t ∧ Answered s t .ack ∧ SameRegisters (s.writeReg r v) t :=
  ⟨_, execWr_register s r v hb, s.writeReg_answered r v .ack, s.sameRegisters_writeReg_respond r v .ack⟩

/-- A register that stores what is written to it: the four operand registers do, by `rfl`. -/
theorem exec_wr_stored (s : State) (r : Reg) (v : Word) (hb : s.busy = false) (hr : (s.writeReg r v).readReg r = v) :
    ∃ t, exec (.wr r.offset 4 v) s = .next t ∧ t.readReg r = v ∧ Answered s t .ack ∧
      SameRegisters (s.writeReg r v) t := by
  obtain ⟨t, hexec, hanswer, hregs⟩ := exec_wr_register s r v hb
  exact ⟨t, hexec, (hregs.readReg_eq r).trans hr, hanswer, hregs⟩

/-- The write to CMD accepts its value as a command (42_host_access.md R164). -/
theorem exec_wr_cmd (s : State) (v : Word) (hb : s.busy = false) :
    ∃ t, exec (.wr 0x10#6 4 v) s = .next t ∧ Answered s t .ack ∧ t.pend = some ⟨v, s.opa, s.opb⟩ ∧
      t.busy = true ∧ t.opa = s.opa ∧ t.opb = s.opb ∧ t.result = s.result := by
  obtain ⟨t, hexec, hanswer, hregs⟩ := exec_wr_register s .cmd v hb
  exact ⟨t, hexec, hanswer, hregs.pend, hregs.busy_eq.trans (s.accept_busy v), hregs.opa_eq, hregs.opb_eq, hregs.result_eq⟩

/-- Settles O20: the rule of a write at each register. -/
theorem writesChangeOneRegister : Obligations.WritesChangeOneRegister := by
  intro s v hb
  refine ⟨exec_wr_stored s .opaLo v hb rfl, exec_wr_stored s .opaHi v hb rfl, exec_wr_stored s .opbLo v hb rfl,
    exec_wr_stored s .opbHi v hb rfl, ?readOnly, exec_wr_cmd s v hb⟩
  case readOnly =>
    intro off hoff
    simp only [List.mem_cons, List.not_mem_nil, or_false] at hoff
    rcases hoff with rfl | rfl | rfl | rfl | rfl
    exacts [exec_wr_register s .status v hb, exec_wr_register s .resLo v hb, exec_wr_register s .resMid v hb,
      exec_wr_register s .resHi v hb, exec_wr_register s .resFlags v hb]

end Sys2Proof.Machine
end

section
/-! The number of a concatenation, which R75 and R76 both write as a sum of fields. -/

namespace Sys2Proof

/-- The high part counts in multiples of the low part's range. -/
theorem toNat_append_eq_mul_add {m n : Nat} (hi : BitVec m) (lo : BitVec n) :
    (hi ++ lo).toNat = hi.toNat * 2 ^ n + lo.toNat := by
  rw [BitVec.toNat_append, ← Nat.shiftLeft_add_eq_or_of_lt lo.isLt, Nat.shiftLeft_eq]

end Sys2Proof
end

section
/-! O5 (30_encoding.md R76). A transaction word is decoded by its fields, and its number is
`K * 2^38 + OFF * 2^32 + DATA`; so each clause is the rule for its kind. -/

namespace Sys2Proof

/-! ### Decoding by the fields -/

theorem decodeTw_packTw_rd (off : Offset) : decodeTw (packTw 0b01#2 off 0#32) = .instr (.rd off 4) := by
  rw [decodeTw, twKind_packTw, twData_packTw, twOffset_packTw, if_pos rfl, if_pos rfl]

theorem decodeTw_packTw_wr (off : Offset) (v : Word) :
    decodeTw (packTw 0b10#2 off v) = .instr (.wr off 4 v) := by
  rw [decodeTw, twKind_packTw, twData_packTw, twOffset_packTw, if_neg (by decide), if_pos rfl]

theorem decodeTw_packTw_rd_data (off : Offset) {v : Word} (hv : v ≠ 0#32) :
    decodeTw (packTw 0b01#2 off v) = .rejected .readCarriesData := by
  rw [decodeTw, twKind_packTw, twData_packTw, if_pos rfl, if_neg hv]

theorem decodeTw_packTw_no_kind {k : BitVec 2} (off : Offset) (v : Word) (hrd : k ≠ 0b01#2) (hwr : k ≠ 0b10#2) :
    decodeTw (packTw k off v) = .rejected .kindSpellsNoTransaction := by
  rw [decodeTw, twKind_packTw, if_neg hrd, if_neg hwr]

/-! ### The number of a transaction word -/

theorem toNat_packTw (k : BitVec 2) (off : Offset) (v : Word) :
    (packTw k off v).toNat = k.toNat * 2 ^ 38 + off.toNat * 2 ^ 32 + v.toNat := by
  rw [packTw, toNat_append_eq_mul_add, toNat_append_eq_mul_add]
  omega

theorem ofNat_eq_packTw {n : Nat} (k : BitVec 2) (off : Offset) (v : Word)
    (h : n = k.toNat * 2 ^ 38 + off.toNat * 2 ^ 32 + v.toNat) : BitVec.ofNat 40 n = packTw k off v := by
  rw [h, ← toNat_packTw, BitVec.ofNat_toNat, BitVec.setWidth_eq]

end Sys2Proof

namespace Sys2Proof.Machine

/-- A 4-byte access at an offset outside the address map answers BUSERR (20_memory.md R55). -/
theorem exec_access_not_admitted (s : State) {off : Offset} (v : Word)
    (h : ¬(off.toNat % 4 = 0 ∧ off.toNat ≤ 0x24)) :
    exec (.rd off 4) s = .next (s.respond .busErr) ∧ exec (.wr off 4 v) s = .next (s.respond .busErr) := by
  have hadm : admitted off 4 = false := by
    rw [← Bool.not_eq_true, admitted_iff]
    exact fun ⟨_, hoff⟩ => h hoff
  exact ⟨execRd_not_admitted s off 4 hadm, execWr_not_admitted s off 4 v hadm⟩

/-- Settles O5: each number is the packed word of its fields; the examples are packed words too. -/
theorem transactionWordFields : Obligations.TransactionWordFields := by
  refine ⟨fun off v s => ⟨?rd, ?wr, ?kind00, ?kind11, fun hv => ?rdData, exec_access_not_admitted s v⟩,
    decodeTw_packTw_wr 0x10#6 1#32, decodeTw_packTw_rd 0x14#6, decodeTw_packTw_rd 0x24#6⟩
  case rd => rw [ofNat_eq_packTw 0b01#2 off 0#32 (by simp), decodeTw_packTw_rd]
  case wr => rw [ofNat_eq_packTw 0b10#2 off v (by simp), decodeTw_packTw_wr]
  case kind00 =>
    rw [ofNat_eq_packTw 0b00#2 off v (by simp)]
    exact decodeTw_packTw_no_kind off v (by decide) (by decide)
  case kind11 =>
    rw [ofNat_eq_packTw 0b11#2 off v (by simp)]
    exact decodeTw_packTw_no_kind off v (by decide) (by decide)
  case rdData => rw [ofNat_eq_packTw 0b01#2 off v (by simp), decodeTw_packTw_rd_data off hv]

end Sys2Proof.Machine
end

section
/-! O23 (30_encoding.md R75). With its reserved bits 0, STATUS is the concatenation of its four fields with zeros between
them, and the number of that concatenation is the sum. -/

namespace Sys2Proof.Machine

/-- The STATUS word of four fields, its reserved bits 0 (10_state.md R24). -/
def packStatus (busy done : Bool) (err : BitVec 3) (lastop : BitVec 4) : Word :=
  0#12 ++ lastop ++ 0#5 ++ err ++ 0#6 ++ BitVec.ofBool done ++ BitVec.ofBool busy

theorem toNat_packStatus (busy done : Bool) (err : BitVec 3) (lastop : BitVec 4) :
    (packStatus busy done err lastop).toNat =
      busy.toNat + 2 * done.toNat + err.toNat * 2 ^ 8 + lastop.toNat * 2 ^ 16 := by
  simp only [packStatus, toNat_append_eq_mul_add, BitVec.toNat_ofBool, BitVec.toNat_ofNat]
  omega

/-- The reserved bits 7:2, 15:11 and 31:20 of STATUS (10_state.md R24). -/
theorem getLsbD_of_statusReserved_eq_zero {w : Word} (h : statusReserved w = 0#32) {i : Nat}
    (hi : 2 ≤ i ∧ i < 8 ∨ 11 ≤ i ∧ i < 16 ∨ 20 ≤ i ∧ i < 32) : w.getLsbD i = false := by
  have hmask : ∀ i < 32, 2 ≤ i ∧ i < 8 ∨ 11 ≤ i ∧ i < 16 ∨ 20 ≤ i ∧ i < 32 →
      (0xFFF0F8FC#32).getLsbD i = true := by decide
  have hbit : (statusReserved w).getLsbD i = false := by rw [h, BitVec.getLsbD_zero]
  rwa [statusReserved, BitVec.getLsbD_and, hmask i (by omega) hi, Bool.and_true] at hbit

/-- STATUS with its reserved bits 0 is put together from its fields: bit by bit, a field's bit or a reserved one. -/
theorem packStatus_fields {w : Word} (h : statusReserved w = 0#32) :
    packStatus (statusBusy w) (statusDone w) (statusErr w) (statusLastop w) = w := by
  apply BitVec.eq_of_getLsbD_eq
  intro i hi
  have hreserved := getLsbD_of_statusReserved_eq_zero h (i := i)
  simp only [packStatus, statusBusy, statusDone, statusErr, statusLastop, BitVec.getLsbD_append,
    BitVec.getLsbD_extractLsb', BitVec.getLsbD_ofBool, BitVec.getLsbD_zero]
  grind

/-- Settles O23: the number of the word its fields make. -/
theorem statusWordEncoding : Obligations.StatusWordEncoding := by
  intro s h
  calc s.status.toNat
      = (packStatus s.busy s.done s.err s.lastop).toNat := congrArg BitVec.toNat (packStatus_fields h).symm
    _ = _ := toNat_packStatus s.busy s.done s.err s.lastop

end Sys2Proof.Machine
end

section
/-! O4 (30_encoding.md R70). What the command decoder answers for each value; a nonzero RSVD field, bits 31:4, is in
neither legal value. -/

namespace Sys2Proof

theorem decodeCmd_cvtF64 : decodeCmd 0x00000001#32 = .instr .cvtF64 := if_pos rfl

theorem decodeCmd_mul64 : decodeCmd 0x00000002#32 = .instr .mul64 := by
  rw [decodeCmd, if_neg (by decide), if_pos rfl]

theorem decodeCmd_illegal {v : Word} (hcvt : v ≠ 0x00000001#32) (hmul : v ≠ 0x00000002#32) :
    decodeCmd v = .rejected .illegalCommand := by
  rw [decodeCmd, if_neg hcvt, if_neg hmul]

/-- A command with a nonzero RSVD field is illegal whatever its OP field. -/
theorem decodeCmd_rsvd {v : Word} (hrsvd : v.extractLsb' 4 28 ≠ 0#28) :
    decodeCmd v = .rejected .illegalCommand := by
  have hcvt : v ≠ 0x00000001#32 := by
    rintro rfl
    exact hrsvd (by decide)
  have hmul : v ≠ 0x00000002#32 := by
    rintro rfl
    exact hrsvd (by decide)
  exact decodeCmd_illegal hcvt hmul

end Sys2Proof

namespace Sys2Proof.Machine

/-- Settles O4: the two legal values, every other one, and those with a nonzero RSVD field among them. -/
theorem wholeValueSelectsCommand : Obligations.WholeValueSelectsCommand := fun _ =>
  ⟨fun h => h ▸ decodeCmd_cvtF64, fun h => h ▸ decodeCmd_mul64, fun ⟨hcvt, hmul⟩ => decodeCmd_illegal hcvt hmul,
    decodeCmd_rsvd⟩

end Sys2Proof.Machine
end

section
/-! O37 and O38 (40_convert.md R103, R106, R107). The exponent counts the octave of a normal magnitude, because its significand
`2^52 + F` has exactly 53 bits; the scale estimate is a linear expression with one floor. -/

namespace Sys2Proof.Machine

/-! ### The octave of a magnitude -/

theorem two_pow_le_magnitude {a : DWord} (h : 1 ≤ expField a) : 2 ^ (expField a + 51) ≤ magnitude a := by
  rw [magnitude_of_normal a h, show expField a + 51 = 52 + (expField a - 1) by omega, pow_add]
  exact Nat.mul_le_mul_right _ (Nat.le_add_right _ _)

/-- The largest magnitude of an octave has 53 bits set. -/
theorem magnitude_le {a : DWord} (h : 1 ≤ expField a) : magnitude a ≤ (2 ^ 53 - 1) * 2 ^ (expField a - 1) := by
  have hfrac := fracField_lt a
  rw [magnitude_of_normal a h]
  exact Nat.mul_le_mul_right _ (by omega)

theorem magnitude_lt_two_pow {a : DWord} (h : 1 ≤ expField a) : magnitude a < 2 ^ (expField a + 52) := by
  rw [show expField a + 52 = 53 + (expField a - 1) by omega, pow_add]
  exact (magnitude_le h).trans_lt (Nat.mul_lt_mul_of_pos_right (by norm_num) (by positivity))

/-- Settles O37: the octave of a normal magnitude, and the octaves the conversion goes on with. -/
theorem exponentBoundsMagnitude : Obligations.ExponentBoundsMagnitude := by
  intro a hE
  have hexp : cvtExp a = (expField a : ℤ) - 1022 := rfl
  refine ⟨hexp, by omega, by omega, f64val_abs64 a (by omega), magnitude_abs64 a, fun hnormal => ?octave,
    fun hlo hhi => ?range⟩
  case octave =>
    rw [show (cvtExp a - 1 + 1074).toNat = expField a + 51 by omega,
      show (cvtExp a + 1074).toNat = expField a + 52 by omega]
    exact ⟨magnitude_of_normal a hnormal, two_pow_le_magnitude hnormal, magnitude_lt_two_pow hnormal⟩
  case range =>
    rw [magnitude_abs64]
    constructor
    · have hlow : 1074 - 95 ≤ expField a + 51 := by omega
      exact (pow_right_mono₀ one_le_two hlow).trans (two_pow_le_magnitude (by omega))
    · have hhigh : expField a + 52 ≤ 1074 + 96 := by omega
      exact (magnitude_lt_two_pow (by omega)).trans_le (pow_right_mono₀ one_le_two hhigh)

/-! ### The scale estimate -/

/-- Settles O38: the shift is the floor, and each bound on it is a linear bound on exp. -/
theorem scaleEstimateRange : Obligations.ScaleEstimateRange := by
  intro exp hlo hhi
  rw [Int.fdiv_eq_ediv_of_nonneg _ (by norm_num), scaleEstimate]
  omega

end Sys2Proof.Machine
end

section
/-! O34 (40_convert.md R118). Completion writes `cvt` of the latched operand A, and keeps its frame. -/

namespace Sys2Proof.Machine

theorem exec_cvtF64_pending {s : State} {p : Pend} (h : s.pend = some p) :
    exec .cvtF64 s = .next (s.complete (cvt p.a)) :=
  execCvtF64_pending s p h

/-- Settles O34: both states complete with the ending of the same operand. -/
theorem outcomeDependsOnOperandAlone : Obligations.OutcomeDependsOnOperandAlone := by
  intro s₁ s₂ p₁ p₂ h₁ h₂ ha
  refine ⟨_, _, exec_cvtF64_pending h₁, exec_cvtF64_pending h₂, ?_, ?_, ?_, ?_,
    completionFrame_complete _ _, completionFrame_complete _ _⟩
  · simp only [State.complete_result, ha]
  · simp only [State.complete_err, ha]
  · simp only [State.complete_done]
  · simp only [State.complete_busy]

end Sys2Proof.Machine
end

section
/-! O40 (40_convert.md R111). The remainder of a binary64 value after truncation is itself one, so the subtraction is exact and
inspecting the remainder is rounding to the nearest integer. -/

namespace Sys2Proof.Machine

theorem toF64_eq (n : Nat) : toF64 n = n * unit := rfl

/-- What lies above a power of two leaves a binary64 value: either the power divides it, or it cuts its significand. -/
theorem IsF64.mod_two_pow {x : Nat} (h : IsF64 x) (j : Nat) : IsF64 (x % 2 ^ j) := by
  obtain ⟨m, e, hm, rfl⟩ := h
  rcases Nat.le_total j e with hje | hej
  · rw [Nat.mod_eq_zero_of_dvd ((pow_dvd_pow 2 hje).mul_left m)]
    exact ⟨0, 0, by norm_num, rfl⟩
  · obtain ⟨k, rfl⟩ := Nat.exists_eq_add_of_le' hej
    exact ⟨m % 2 ^ k, e, (Nat.mod_le _ _).trans_lt hm, by rw [pow_add, Nat.mul_mod_mul_right]⟩

theorem sub_toF64_trunc (d : Nat) : d - toF64 (trunc d) = d % unit := by
  rw [toF64, trunc, Nat.mod_eq_sub, Nat.mul_comm]

theorem fsub_toF64_trunc {d : Nat} (h : IsF64 d) : fsub d (toF64 (trunc d)) = d % unit := by
  rw [fsub, sub_toF64_trunc]
  exact rne_of_isF64 (h.mod_two_pow 1074)

theorem roundByRemainder_eq_roundNearestEven (d : Nat) :
    roundByRemainder (d / unit) (d % unit) = roundNearestEven d unit := by
  have lt_iff : half < d % unit ↔ unit < 2 * (d % unit) := by rw [unit_eq_two_half]; omega
  have eq_iff : d % unit = half ↔ 2 * (d % unit) = unit := by rw [unit_eq_two_half]; omega
  simp only [roundByRemainder, roundNearestEven, lt_iff, eq_iff]

/-- The converter rounds a binary64 value to the nearest integer, ties to even. -/
theorem roundMantissa_eq_roundNearestEven {d : Nat} (h : IsF64 d) : roundMantissa d = roundNearestEven d unit := by
  rw [roundMantissa, fsub_toF64_trunc h, trunc, roundByRemainder_eq_roundNearestEven]

theorem roundMantissa_le {d n : Nat} (h : IsF64 d) (hd : d ≤ toF64 n) : roundMantissa d ≤ n := by
  rw [roundMantissa_eq_roundNearestEven h]
  exact roundNearestEven_le d unit n unit_pos hd

/-- Rounding moves a quotient by at most one half, and a tie to an even integer. -/
theorem roundNearestEven_nearest (num : Nat) {den : Nat} (hden : 0 < den) :
    2 * |(roundNearestEven num den : ℤ) * den - num| ≤ den ∧
      (2 * |(roundNearestEven num den : ℤ) * den - num| = den → roundNearestEven num den % 2 = 0) := by
  have hr := Nat.mod_lt num hden
  have hdiv : (den : ℤ) * (num / den : Nat) + (num % den : Nat) = num := by exact_mod_cast Nat.div_add_mod num den
  unfold roundNearestEven
  simp only
  generalize num / den = q at *
  generalize num % den = r at *
  split
  · next hup =>
    have hdist : ((q + 1 : Nat) : ℤ) * den - num = (den - r : Nat) := by
      push_cast [hr.le]
      linarith
    rw [hdist, Nat.abs_cast]
    omega
  · next hdown =>
    have hdist : (q : ℤ) * den - num = -r := by linarith
    rw [hdist, abs_neg, Nat.abs_cast]
    omega

/-- Settles O40: the remainder is exact, and the mantissa is the value rounded to the nearest integer. -/
theorem mantissaRoundsHalfToEven : Obligations.MantissaRoundsHalfToEven := by
  intro d hF64 hlt
  have hround := roundMantissa_eq_roundNearestEven hF64
  refine ⟨?exact, Nat.div_mul_le_self d unit, ?above, roundMantissa_le hF64 hlt.le, ?nearest⟩
  case exact => rw [fsub_toF64_trunc hF64, ← sub_toF64_trunc, toF64_eq]
  case above =>
    rw [Nat.mul_comm]
    exact Nat.lt_mul_div_succ d unit_pos
  case nearest =>
    rw [hround]
    exact roundNearestEven_nearest d unit_pos

end Sys2Proof.Machine
end

section
/-! O41 (40_convert.md R113). Both multipliers answer the exact product, since neither of its widths wraps; WIDE reports a
product of 2^96 or more by its top 32 bits. So one equation says what widening does for every p the tables hold. -/

namespace Sys2Proof.Machine

/-! ### The two multipliers -/

theorem toNat_mul64x32 (m : DWord) (k : Word) : (mul64x32 m k).toNat = m.toNat * k.toNat := by
  have hlt : m.toNat * k.toNat < 2 ^ 64 * 2 ^ 32 := Nat.mul_lt_mul'' m.isLt k.isLt
  rw [mul64x32, BitVec.toNat_mul, BitVec.toNat_setWidth_of_le (by norm_num), BitVec.toNat_setWidth_of_le (by norm_num)]
  exact Nat.mod_eq_of_lt hlt

theorem toNat_wide_fst (a b : DWord) : (wide a b).1.toNat = a.toNat * b.toNat := by
  have hlt : a.toNat * b.toNat < 2 ^ 64 * 2 ^ 64 := Nat.mul_lt_mul'' a.isLt b.isLt
  rw [wide, BitVec.toNat_mul, BitVec.toNat_setWidth_of_le (by norm_num), BitVec.toNat_setWidth_of_le (by norm_num)]
  exact Nat.mod_eq_of_lt hlt

theorem wide_snd_iff (a b : DWord) : (wide a b).2 = true ↔ 2 ^ 96 ≤ a.toNat * b.toNat := by
  have htop : (wide a b).2 = ((wide a b).1.extractLsb' 96 32 != 0#32) := rfl
  have hlt := (wide a b).1.isLt
  rw [htop, bne_iff_ne, ne_eq, BitVec.toNat_eq, BitVec.extractLsb'_toNat, Nat.shiftRight_eq_div_pow, ← toNat_wide_fst]
  simp only [BitVec.toNat_ofNat]
  omega

/-! ### Widening -/

theorem mul_ten_pow_lt {mant p : Nat} (hp : p < 10) (hmant : mant < 2 ^ 64) : mant * 10 ^ p < 2 ^ 96 :=
  calc mant * 10 ^ p ≤ mant * 10 ^ 9 := Nat.mul_le_mul_left _ (Nat.pow_le_pow_right (by norm_num) (by omega))
    _ < 2 ^ 64 * 2 ^ 32 := Nat.mul_lt_mul'' hmant (by norm_num)

/-- Widening by the exact product, which p below 20 keeps inside the tables (10_state.md R30). -/
theorem widen_eq {mant p : Nat} (hp : p < 20) (hmant : mant < 2 ^ 64) :
    widen mant (-p) = if mant * 10 ^ p < 2 ^ 96 then some (BitVec.ofNat 96 (mant * 10 ^ p)) else none := by
  have hnat : (BitVec.ofNat 64 mant).toNat = mant := by rw [BitVec.toNat_ofNat, Nat.mod_eq_of_lt hmant]
  simp only [widen, neg_neg, Int.toNat_natCast]
  split
  case isTrue hlt =>
    rw [if_pos (mul_ten_pow_lt hlt hmant)]
    congr 1
    apply BitVec.eq_of_toNat_eq
    rw [toNat_mul64x32, hnat, toNat_powU32 hlt, BitVec.toNat_ofNat, Nat.mod_eq_of_lt (mul_ten_pow_lt hlt hmant)]
  case isFalse hge =>
    have hproduct : (BitVec.ofNat 64 mant).toNat * (powU64 p).toNat = mant * 10 ^ p := by rw [hnat, toNat_powU64 hp]
    simp only [wide_snd_iff, hproduct, ← not_lt, ite_not]
    congr 2
    apply BitVec.eq_of_toNat_eq
    rw [BitVec.extractLsb'_toNat, toNat_wide_fst, hproduct, BitVec.toNat_ofNat, Nat.shiftRight_zero]

theorem assemble_of_neg {sign : Bool} {x : Scaled} {p : Nat} (hpos : 1 ≤ p) (hp : p < 20) (hpower : x.power = -(p : ℤ))
    (hzero : roundMantissa x.d ≠ 0) (hmant : roundMantissa x.d < 2 ^ 64) :
    assemble sign x = if roundMantissa x.d * 10 ^ p < 2 ^ 96 then ok (pack sign 0 (roundMantissa x.d * 10 ^ p))
      else fail .overflow := by
  rw [assemble, assembleMantissa, if_neg hzero, if_pos (by omega), hpower, widen_eq hp hmant]
  by_cases hfits : roundMantissa x.d * 10 ^ p < 2 ^ 96
  · simp only [if_pos hfits, BitVec.toNat_ofNat, Nat.mod_eq_of_lt hfits]
  · simp only [if_neg hfits]

/-- Settles O41: the product fits or it does not, and below p = 10 it does. -/
theorem widenMultipliesExactly : Obligations.WidenMultipliesExactly := by
  intro sign x p hpos hp hpower hzero hmant
  rw [assemble_of_neg hpos (by omega) hpower hzero hmant]
  refine ⟨fun hfits => ?fits, fun ⟨_, hover⟩ => if_neg (by omega)⟩
  case fits =>
    have hlt : roundMantissa x.d * 10 ^ p < 2 ^ 96 := hfits.elim (fun hlow => mul_ten_pow_lt hlow hmant) id
    exact ⟨if_pos hlt, hlt⟩

end Sys2Proof.Machine
end

section
/-! The packed record (40_convert.md R115): each word is a field of the mantissa or of the flags, and the sign has bit 31 of the
flags word to itself. -/

namespace Sys2Proof.Machine

theorem pack_layout {sign : Bool} {scale m : Nat} (hm : m < 2 ^ 96) :
    (pack sign scale m).lo.toNat = m % 2 ^ 32 ∧ (pack sign scale m).mid.toNat = m / 2 ^ 32 % 2 ^ 32 ∧
    (pack sign scale m).hi.toNat = m / 2 ^ 64 := by
  simp only [pack, BitVec.toNat_ofNat, true_and]
  omega

theorem toNat_packFlags {sign : Bool} {scale : Nat} (h : scale < 256) :
    (packFlags sign scale).toNat = sign.toNat * 2 ^ 31 + scale * 2 ^ 16 := by
  simp only [packFlags, toNat_append_eq_mul_add, BitVec.toNat_ofBool, BitVec.toNat_ofNat]
  omega

theorem scale_pack {sign : Bool} {scale m : Nat} (h : scale < 256) : (pack sign scale m).scale = scale := by
  rw [Record.scale, BitVec.extractLsb'_toNat, Nat.shiftRight_eq_div_pow, pack, toNat_packFlags h]
  have := Bool.toNat_le sign
  omega

/-- The two flags words of a record and of its twin differ in bit 31 only. -/
theorem packFlags_true (scale : Nat) : packFlags true scale = packFlags false scale ^^^ 0x80000000#32 := by
  apply BitVec.eq_of_getLsbD_eq
  intro i hi
  have hbit : (0x80000000#32).getLsbD i = decide (i = 31) := by decide +revert
  simp only [packFlags, BitVec.getLsbD_append, BitVec.getLsbD_xor, BitVec.getLsbD_zero, BitVec.getLsbD_ofBool, hbit]
  grind

theorem sign_pack (sign : Bool) (scale m : Nat) : (pack sign scale m).sign = sign := by
  simp only [Record.sign, pack, packFlags, BitVec.getLsbD_append]
  simp

theorem mantissa_pack_eq (sign : Bool) (scale m : Nat) : (pack sign scale m).mantissa = BitVec.ofNat 96 m := by
  apply BitVec.eq_of_toNat_eq
  simp only [Record.mantissa, pack, toNat_append_eq_mul_add, BitVec.toNat_ofNat]
  omega

theorem mantissa_pack_ne_zero {m : Nat} (sign : Bool) (scale : Nat) (hpos : m ≠ 0) (hlt : m < 2 ^ 96) :
    (pack sign scale m).mantissa ≠ 0#96 := by
  rw [mantissa_pack_eq, ne_eq, BitVec.toNat_eq, BitVec.toNat_ofNat, Nat.mod_eq_of_lt hlt]
  exact hpos

end Sys2Proof.Machine
end

section
/-! Rounding to binary64 never crosses a binary64 value (00_scope.md R11), and its result is one. With that, a bound on an exact
product or quotient by a binary64 value is a bound on the converter's. -/

namespace Sys2Proof.Machine

theorem isF64_toF64 {n : Nat} (h : n < 2 ^ 53) : IsF64 (toF64 n) := ⟨n, 1074, h, rfl⟩

theorem isF64_unit : IsF64 unit := ⟨1, 1074, by norm_num, by rw [unit, Nat.one_mul]⟩

theorem isF64_magnitude (a : DWord) : IsF64 (magnitude a) := by
  have hfrac := fracField_lt a
  rcases Nat.eq_zero_or_pos (expField a) with hzero | hpos
  · exact ⟨fracField a, 0, by omega, by rw [magnitude_of_subnormal a hzero, pow_zero, Nat.mul_one]⟩
  · exact ⟨2 ^ 52 + fracField a, expField a - 1, by omega, magnitude_of_normal a hpos⟩

/-! ### Bounds by binary64 values -/

/-- A binary64 value is a multiple of a power of two, or below 2^52 of them. -/
theorem IsF64.dvd_or_lt {x : Nat} (h : IsF64 x) (j : Nat) : 2 ^ j ∣ x ∨ x < 2 ^ 52 * 2 ^ j ∧ j ≠ 0 := by
  obtain ⟨m, e, hm, rfl⟩ := h
  rcases le_or_gt j e with hje | hej
  · exact .inl ((pow_dvd_pow 2 hje).mul_left m)
  · refine .inr ⟨?_, by omega⟩
    calc m * 2 ^ e < 2 ^ 53 * 2 ^ e := Nat.mul_lt_mul_of_pos_right hm (by positivity)
      _ = 2 ^ (52 + (e + 1)) := by ring
      _ ≤ 2 ^ (52 + j) := Nat.pow_le_pow_right two_pos (by omega)
      _ = 2 ^ 52 * 2 ^ j := pow_add _ _ _

/-- The same at the spacing a number is rounded at: there a value below 2^52 spacings is below that number. -/
theorem IsF64.dvd_or_lt_spacing {x : Nat} (h : IsF64 x) (num den : Nat) :
    spacing num den ∣ x ∨ x < 2 ^ 52 * spacing num den ∧ 2 ^ 52 * (den * spacing num den) ≤ num := by
  rcases h.dvd_or_lt ((num / den).log2 - 52) with hdvd | ⟨hlt, hj⟩
  · exact .inl hdvd
  · exact .inr ⟨hlt, spacing_le_num num den (Nat.one_lt_two_pow hj).ne'⟩

theorem le_rne {x num den : Nat} (hx : IsF64 x) (hden : 0 < den) (h : x * den ≤ num) : x ≤ rne num den := by
  have hpos := Nat.mul_pos hden (spacing_pos num den)
  rw [rne]
  rcases hx.dvd_or_lt_spacing num den with ⟨q, hq⟩ | ⟨hlt, hnum⟩
  · generalize spacing num den = s at *
    subst hq
    rw [Nat.mul_comm s q]
    exact Nat.mul_le_mul_right s (le_roundNearestEven _ _ q hpos (by linarith))
  · exact hlt.le.trans (Nat.mul_le_mul_right _ (le_roundNearestEven _ _ _ hpos hnum))

theorem rne_le {x num den : Nat} (hx : IsF64 x) (hden : 0 < den) (h : num ≤ x * den) : rne num den ≤ x := by
  have hpos := Nat.mul_pos hden (spacing_pos num den)
  rw [rne]
  rcases hx.dvd_or_lt_spacing num den with ⟨q, hq⟩ | ⟨hlt, hnum⟩
  · generalize spacing num den = s at *
    subst hq
    rw [Nat.mul_comm s q]
    exact Nat.mul_le_mul_right s (roundNearestEven_le _ _ q hpos (by linarith))
  · exact absurd (Nat.mul_lt_mul_of_pos_right hlt hden) (by linarith)

theorem isF64_rne (num : Nat) {den : Nat} (hden : 0 < den) : IsF64 (rne num den) := by
  have hpos := Nat.mul_pos hden (spacing_pos num den)
  have hle : roundNearestEven num (den * spacing num den) ≤ 2 ^ 53 :=
    roundNearestEven_le _ _ _ hpos (num_lt_spacing num den hden).le
  rw [rne, spacing]
  rw [spacing] at hle
  rcases Nat.lt_or_eq_of_le hle with hlt | heq
  · exact ⟨_, _, hlt, rfl⟩
  · exact ⟨2 ^ 52, (num / den).log2 - 52 + 1, by norm_num, by rw [heq]; ring⟩

/-! ### Products and quotients by integers -/

theorem rne_mul_right (num den : Nat) {c : Nat} (hc : 0 < c) : rne (num * c) (den * c) = rne num den := by
  rw [rne, rne, spacing, spacing, Nat.mul_div_mul_right _ _ hc, Nat.mul_right_comm den c,
    roundNearestEven_mul_right _ _ hc]

theorem fmul_toF64 (d n : Nat) : fmul d (toF64 n) = rne (d * n) 1 := by
  rw [fmul, toF64, ← Nat.mul_assoc]
  simpa using rne_mul_right (d * n) 1 unit_pos

theorem fdiv_toF64 (d n : Nat) : fdiv d (toF64 n) = rne d n := rne_mul_right d n unit_pos

end Sys2Proof.Machine
end

section
/-! R116 (40_convert.md), as far as the outcome class depends on it. The exponent field fixes an octave for the magnitude and,
with the estimate, the power of ten; so each bound on the scaled value is one inequality between a power of two and an entry
of T_D for each exponent, and these are checked for all of them. Second-chance normalisation keeps the bounds. -/

namespace Sys2Proof.Machine

/-! ### The rounded mantissa -/

theorem roundNearestEven_eq_zero_iff (num : Nat) {den : Nat} (hden : 0 < den) :
    roundNearestEven num den = 0 ↔ 2 * num ≤ den := by
  rcases Nat.lt_or_ge num den with hlt | hge
  · simp only [roundNearestEven, Nat.div_eq_of_lt hlt, Nat.mod_eq_of_lt hlt]
    split <;> omega
  · have hone := le_roundNearestEven num den 1 hden (by omega)
    omega

theorem roundMantissa_eq_zero_iff {d : Nat} (h : IsF64 d) : roundMantissa d = 0 ↔ d ≤ half := by
  rw [roundMantissa_eq_roundNearestEven h, roundNearestEven_eq_zero_iff d unit_pos, unit_eq_two_half]
  omega

/-- Widening by 10^14 starts from at most `792281625142643.375`, which rounds down. -/
theorem roundMantissa_le_max {d : Nat} (h : IsF64 d) (hd : d ≤ 6338253001141147 * 2 ^ 1071) :
    roundMantissa d ≤ 792281625142643 := by
  have hunit : unit = 2 ^ 3 * 2 ^ 1071 := by rw [unit, ← pow_add]
  calc roundMantissa d = roundNearestEven d unit := roundMantissa_eq_roundNearestEven h
    _ ≤ roundNearestEven (6338253001141147 * 2 ^ 1071) unit := roundNearestEven_mono _ _ _ unit_pos hd
    _ = roundNearestEven 6338253001141147 (2 ^ 3) := by rw [hunit, roundNearestEven_mul_right _ _ (by positivity)]
    _ = 792281625142643 := by decide

/-! ### The range of a scaled value -/

/-- What the steps after scaling rely on. -/
structure Scaled.InRange (x : Scaled) : Prop where
  isF64 : IsF64 x.d
  le_max : x.d ≤ toF64 (10 ^ 15)
  power_ge : -14 ≤ x.power
  mantissa_le : x.power = -14 → roundMantissa x.d ≤ 792281625142643

theorem Scaled.InRange.roundMantissa_le {x : Scaled} (h : x.InRange) : roundMantissa x.d ≤ 10 ^ 15 :=
  Machine.roundMantissa_le h.isF64 h.le_max

/-- The product of R113 always fits (40_convert.md R117). -/
theorem Scaled.InRange.product_lt {x : Scaled} (h : x.InRange) {p : Nat} (hp : x.power = -(p : ℤ)) :
    roundMantissa x.d * 10 ^ p < 2 ^ 96 := by
  have hge := h.power_ge
  rcases Nat.lt_or_ge p 14 with hlt | hge
  · calc roundMantissa x.d * 10 ^ p ≤ 10 ^ 15 * 10 ^ 13 :=
          Nat.mul_le_mul h.roundMantissa_le (Nat.pow_le_pow_right (by norm_num) (by omega))
      _ < 2 ^ 96 := by norm_num
  · obtain rfl : p = 14 := by omega
    calc roundMantissa x.d * 10 ^ 14 ≤ 792281625142643 * 10 ^ 14 := Nat.mul_le_mul_right _ (h.mantissa_le hp)
      _ < 2 ^ 96 := by norm_num

/-! ### Second-chance normalisation -/

theorem renorm_cases (x : Scaled) :
    renorm x = x ∨ renorm x = ⟨rne (x.d * 10) 1, x.power + 1⟩ ∧ x.d < toF64 (10 ^ 14) ∧ x.power < 28 := by
  rw [renorm]
  split
  case isTrue h => exact .inr ⟨by rw [fmul_toF64], h⟩
  case isFalse => exact .inl rfl

theorem renorm_of_clamped {x : Scaled} (h : x.power = 28) : renorm x = x := by
  rw [renorm, if_neg (by omega)]

theorem Scaled.InRange.renorm {x : Scaled} (h : x.InRange) : (renorm x).InRange := by
  have hge := h.power_ge
  obtain heq | ⟨heq, hlt, -⟩ := renorm_cases x
  · rwa [heq]
  · rw [heq]
    refine ⟨isF64_rne _ one_pos, rne_le (isF64_toF64 (by norm_num)) one_pos ?_,
      show -14 ≤ x.power + 1 by omega, fun (hpower : x.power + 1 = -14) => by omega⟩
    rw [toF64] at *
    omega

theorem le_renorm {x : Scaled} (h : IsF64 x.d) : x.d ≤ (renorm x).d := by
  obtain heq | ⟨heq, -, -⟩ := renorm_cases x
  · rw [heq]
  · rw [heq]
    exact le_rne h one_pos (by omega)

/-! ### Scaling up -/

theorem scaleEstimate_nonneg_iff (exp : ℤ) : 0 ≤ scaleEstimate exp ↔ exp ≤ 49 := by
  rw [scaleEstimate]
  omega

theorem scaleUp_eq (d : Nat) (power0 : ℤ) :
    scaleUp d power0 = ⟨rne (d * rne (10 ^ (min power0 28).toNat) 1) 1, min power0 28⟩ := by
  simp only [scaleUp]
  rw [powD_eq_toF64 (by omega), fmul_toF64]

/-- R116's bounds for each exponent field that is scaled up, the ends of its octave against the entry of T_D: at most 10^15, and
more than one half from 929 on. -/
theorem octave_mul_entry_bounds : ∀ E : Nat, E < 1072 → 928 ≤ E →
    let entry := rne (10 ^ (min (scaleEstimate ((E : ℤ) - 1022)) 28).toNat) 1
    2 ^ (E + 52) * entry ≤ toF64 (10 ^ 15) ∧ (929 ≤ E → 129 * 2 ^ 1066 ≤ 2 ^ (E + 51) * entry) := by
  decide +kernel

theorem scaleUp_inRange {a : DWord} (hlo : 928 ≤ expField a) (hhi : expField a < 1072) :
    (scaleUp (magnitude a) (scaleEstimate (cvtExp a))).InRange := by
  obtain ⟨hupper, -⟩ := octave_mul_entry_bounds (expField a) hhi hlo
  have hnonneg := (scaleEstimate_nonneg_iff (cvtExp a)).mpr (by rw [cvtExp]; omega)
  rw [scaleUp_eq]
  refine ⟨isF64_rne _ one_pos, rne_le (isF64_toF64 (by norm_num)) one_pos ?_, by dsimp only; omega, by dsimp only; omega⟩
  rw [Nat.mul_one]
  exact (Nat.mul_le_mul_right _ (magnitude_lt_two_pow (by omega)).le).trans hupper

theorem half_lt_scaleUp {a : DWord} (hlo : 929 ≤ expField a) (hhi : expField a < 1072) :
    half < (scaleUp (magnitude a) (scaleEstimate (cvtExp a))).d := by
  obtain ⟨-, hlower⟩ := octave_mul_entry_bounds (expField a) hhi (by omega)
  have hhalf : half = 2 ^ 7 * 2 ^ 1066 := by rw [half, ← pow_add]
  rw [scaleUp_eq]
  calc half < 129 * 2 ^ 1066 := by rw [hhalf]; exact Nat.mul_lt_mul_of_pos_right (by norm_num) (by positivity)
    _ ≤ _ := le_rne ⟨129, 1066, by norm_num, rfl⟩ one_pos ?_
  rw [Nat.mul_one]
  exact (hlower hlo).trans (Nat.mul_le_mul_right _ (two_pow_le_magnitude (by omega)))

/-! ### Scaling down -/

/-- R116's bounds for each exponent field that is scaled down: from 1 to 10^15. -/
theorem octave_bounds : ∀ E : Nat, E < 1119 → 1072 ≤ E →
    let divisor := 10 ^ (-scaleEstimate ((E : ℤ) - 1022)).toNat
    unit * divisor ≤ 2 ^ (E + 51) ∧ 2 ^ (E + 52) ≤ toF64 (10 ^ 15) * divisor := by
  decide +kernel

theorem scaleDown_cases (d : Nat) {power0 : ℤ} (hlo : -14 ≤ power0) :
    scaleDown d power0 = ⟨rne d (10 ^ (-power0).toNat), power0⟩ ∨
      scaleDown d power0 = ⟨d, 0⟩ ∧ d < toF64 (10 ^ 15) := by
  rw [scaleDown]
  split
  case isTrue => exact .inl (by rw [powD_exact (by omega), ← toF64_eq, fdiv_toF64])
  case isFalse h => exact .inr ⟨rfl, by omega⟩

/-- The largest magnitude below 2^96 divided by 10^14. -/
theorem magnitude_le_max {a : DWord} (hlo : 1 ≤ expField a) (hhi : expField a < 1119) :
    magnitude a ≤ 6338253001141147 * 2 ^ 1071 * 10 ^ 14 :=
  calc magnitude a ≤ (2 ^ 53 - 1) * 2 ^ (expField a - 1) := magnitude_le hlo
    _ ≤ (2 ^ 53 - 1) * 2 ^ (46 + 1071) := Nat.mul_le_mul_left _ (pow_right_mono₀ one_le_two (by omega))
    _ = (2 ^ 53 - 1) * 2 ^ 46 * 2 ^ 1071 := by rw [pow_add, Nat.mul_assoc]
    _ ≤ 6338253001141147 * 10 ^ 14 * 2 ^ 1071 := Nat.mul_le_mul_right _ (by norm_num)
    _ = 6338253001141147 * 2 ^ 1071 * 10 ^ 14 := Nat.mul_right_comm _ _ _

theorem scaleDown_inRange {a : DWord} (hlo : 1072 ≤ expField a) (hhi : expField a < 1119) :
    (scaleDown (magnitude a) (scaleEstimate (cvtExp a))).InRange := by
  obtain ⟨-, hupper⟩ := octave_bounds (expField a) hhi hlo
  have hge : -14 ≤ scaleEstimate (cvtExp a) := by rw [scaleEstimate, cvtExp]; omega
  obtain heq | ⟨heq, hlt⟩ := scaleDown_cases (magnitude a) hge <;> rw [heq]
  case inl =>
    have hpos : 0 < 10 ^ (-scaleEstimate (cvtExp a)).toNat := by positivity
    refine ⟨isF64_rne _ hpos, rne_le (isF64_toF64 (by norm_num)) hpos ?_, hge, fun hpower => ?_⟩
    · exact (magnitude_lt_two_pow (by omega)).le.trans hupper
    · dsimp only at hpower ⊢
      rw [hpower, show (- -14 : ℤ).toNat = 14 from rfl]
      exact roundMantissa_le_max (isF64_rne _ (by positivity))
        (rne_le ⟨6338253001141147, 1071, by norm_num, rfl⟩ (by positivity) (magnitude_le_max (by omega) hhi))
  case inr => exact ⟨isF64_magnitude a, hlt.le, by dsimp only; omega, by dsimp only; omega⟩

theorem unit_le_scaleDown {a : DWord} (hlo : 1072 ≤ expField a) (hhi : expField a < 1119) :
    unit ≤ (scaleDown (magnitude a) (scaleEstimate (cvtExp a))).d := by
  obtain ⟨hlower, -⟩ := octave_bounds (expField a) hhi hlo
  have hge : -14 ≤ scaleEstimate (cvtExp a) := by rw [scaleEstimate, cvtExp]; omega
  have hoctave := two_pow_le_magnitude (show 1 ≤ expField a by omega)
  obtain heq | ⟨heq, hlt⟩ := scaleDown_cases (magnitude a) hge <;> rw [heq]
  case inl => exact le_rne isF64_unit (by positivity) (hlower.trans hoctave)
  case inr => exact (pow_right_mono₀ one_le_two (show 1074 ≤ expField a + 51 by omega)).trans hoctave

/-! ### The scaled magnitude -/

theorem scaleMagnitude_of_lt {a : DWord} (h : expField a < 1072) :
    scaleMagnitude (magnitude a) (cvtExp a) = renorm (scaleUp (magnitude a) (scaleEstimate (cvtExp a))) := by
  have hnonneg := (scaleEstimate_nonneg_iff (cvtExp a)).mpr (by rw [cvtExp]; omega)
  simp only [scaleMagnitude, if_pos hnonneg]

theorem scaleMagnitude_of_ge {a : DWord} (h : 1072 ≤ expField a) :
    scaleMagnitude (magnitude a) (cvtExp a) = renorm (scaleDown (magnitude a) (scaleEstimate (cvtExp a))) := by
  have hneg := mt (scaleEstimate_nonneg_iff (cvtExp a)).mp (by rw [cvtExp]; omega)
  simp only [scaleMagnitude, if_neg hneg]

theorem scaleMagnitude_inRange {a : DWord} (hlo : 928 ≤ expField a) (hhi : expField a < 1119) :
    (scaleMagnitude (magnitude a) (cvtExp a)).InRange := by
  rcases Nat.lt_or_ge (expField a) 1072 with hup | hdown
  · exact scaleMagnitude_of_lt hup ▸ (scaleUp_inRange hlo hup).renorm
  · exact scaleMagnitude_of_ge hdown ▸ (scaleDown_inRange hdown hhi).renorm

/-- From exponent field 929 on the mantissa does not round to 0. -/
theorem half_lt_scaleMagnitude {a : DWord} (hlo : 929 ≤ expField a) (hhi : expField a < 1119) :
    half < (scaleMagnitude (magnitude a) (cvtExp a)).d := by
  rcases Nat.lt_or_ge (expField a) 1072 with hup | hdown
  · rw [scaleMagnitude_of_lt hup]
    exact (half_lt_scaleUp hlo hup).trans_le (le_renorm (scaleUp_inRange (by omega) hup).isF64)
  · have hhalf : half < unit := by have := unit_pos; rw [unit_eq_two_half] at *; omega
    rw [scaleMagnitude_of_ge hdown]
    exact hhalf.trans_le ((unit_le_scaleDown hdown hhi).trans (le_renorm (scaleDown_inRange hdown hhi).isF64))

/-- The lowest converted octave has the clamped scale 28 and stays at most 1. -/
theorem scaleMagnitude_lowest {a : DWord} (h : expField a = 928) :
    (scaleMagnitude (magnitude a) (cvtExp a)).power = 28 ∧
      (scaleMagnitude (magnitude a) (cvtExp a)).d ≤ toF64 1 := by
  have hestimate : scaleEstimate (cvtExp a) = 43 := by rw [cvtExp, h]; rfl
  rw [scaleMagnitude_of_lt (by omega), hestimate, renorm_of_clamped rfl, scaleUp_eq]
  refine ⟨rfl, rne_le (isF64_toF64 (by norm_num)) one_pos ?_⟩
  calc _ ≤ 2 ^ (928 + 52) * rne (10 ^ 28) 1 := Nat.mul_le_mul_right _ (h ▸ (magnitude_lt_two_pow (by omega)).le)
    _ ≤ toF64 1 * 1 := by decide +kernel

end Sys2Proof.Machine
end

section
/-! O43 (40_convert.md R115, R117). By the class of its exponent field an input ends with the zero decimal or with a packed
record of a nonzero mantissa; everything but the packed sign is a function of the pattern with its sign cleared. -/

namespace Sys2Proof.Machine

/-! ### CVT by the class of the exponent field -/

theorem cvt_invalid {a : DWord} (h : expField a = 2047) : cvt a = fail .invalidInput := if_pos h

theorem cvt_underflow {a : DWord} (h : expField a ≤ 927) : cvt a = ok .zero := by
  rw [cvt, if_neg (by omega), if_pos (by rw [cvtExp]; omega)]

theorem cvt_overflow {a : DWord} (hlo : 1119 ≤ expField a) (hhi : expField a ≠ 2047) : cvt a = fail .overflow := by
  rw [cvt, if_neg hhi, if_neg (by rw [cvtExp]; omega), if_pos (by rw [cvtExp]; omega)]

theorem cvt_converted {a : DWord} (hlo : 928 ≤ expField a) (hhi : expField a < 1119) :
    cvt a = assemble (signBit a) (scaleMagnitude (magnitude a) (cvtExp a)) := by
  rw [cvt, if_neg (by omega), if_neg (by rw [cvtExp]; omega), if_neg (by rw [cvtExp]; omega), magnitude_abs64]

/-! ### The assembled record -/

theorem factorStep_mant {k : Nat} (hk : k < 10) {f : Factoring} (h : f.mant ≠ 0) :
    (factorStep k f).mant ≠ 0 ∧ (factorStep k f).mant ≤ f.mant := by
  rw [factorStep, toNat_powU32 hk]
  split
  case isTrue hdiv =>
    have hle := Nat.le_of_dvd (Nat.pos_of_ne_zero h) (Nat.dvd_of_mod_eq_zero hdiv.2)
    exact ⟨(Nat.div_pos hle (by positivity)).ne', Nat.div_le_self _ _⟩
  case isFalse => exact ⟨h, le_rfl⟩

/-- Factoring a nonzero mantissa leaves a nonzero one, no larger. -/
theorem factor_mant {mant : Nat} (power : ℤ) (h : mant ≠ 0) :
    (factor mant power).mant ≠ 0 ∧ (factor mant power).mant ≤ mant := by
  obtain ⟨h8, hle8⟩ := factorStep_mant (k := 8) (f := ⟨mant, power, min power 14⟩) (by norm_num) h
  obtain ⟨h4, hle4⟩ := factorStep_mant (k := 4) (by norm_num) h8
  obtain ⟨h2, hle2⟩ := factorStep_mant (k := 2) (by norm_num) h4
  obtain ⟨h1, hle1⟩ := factorStep_mant (k := 1) (by norm_num) h2
  exact ⟨h1, hle1.trans (hle2.trans (hle4.trans hle8))⟩

theorem code_ok (r : Record) : (ok r).code = .none := rfl

theorem assemble_zero {sign : Bool} {x : Scaled} (h : roundMantissa x.d = 0) : assemble sign x = ok .zero := by
  rw [assemble, assembleMantissa, if_pos h]

theorem assemble_of_nonneg {sign : Bool} {x : Scaled} (hpower : 0 ≤ x.power) (hzero : roundMantissa x.d ≠ 0) :
    assemble sign x =
      ok (pack sign (factor (roundMantissa x.d) x.power).power.toNat (factor (roundMantissa x.d) x.power).mant) := by
  rw [assemble, assembleMantissa, if_neg hzero, if_neg (not_lt.mpr hpower)]

/-- A scaled value whose mantissa is not 0 is packed without error, with a mantissa that fits and does not depend on the
sign. -/
theorem Scaled.InRange.exists_pack {x : Scaled} (h : x.InRange) (hzero : roundMantissa x.d ≠ 0) :
    ∃ scale M, M ≠ 0 ∧ M < 2 ^ 96 ∧ ∀ sign, assemble sign x = ok (pack sign scale M) := by
  have hmant := h.roundMantissa_le
  rcases lt_or_ge x.power 0 with hneg | hnonneg
  · obtain ⟨p, hp⟩ := Int.exists_eq_neg_ofNat hneg.le
    have hge := h.power_ge
    have hfits := h.product_lt hp
    refine ⟨0, roundMantissa x.d * 10 ^ p, by positivity, hfits, fun sign => ?_⟩
    rw [assemble_of_neg (by omega) (by omega) hp hzero (by omega), if_pos hfits]
  · obtain ⟨hpos, hle⟩ := factor_mant x.power hzero
    exact ⟨_, _, hpos, by omega, fun sign => assemble_of_nonneg hnonneg hzero⟩

/-! ### The twins -/

/-- All inputs that differ in their sign only end with one and the same zero decimal, or with records that differ in the
packed sign only. -/
theorem cvt_cases (a : DWord) :
    (∃ e : Ending, e.record = .zero ∧ ∀ b, abs64 b = abs64 a → cvt b = e) ∨
      ∃ scale M, M ≠ 0 ∧ M < 2 ^ 96 ∧ ∀ b, abs64 b = abs64 a → cvt b = ok (pack (signBit b) scale M) := by
  have hfield {b : DWord} (hb : abs64 b = abs64 a) : expField b = expField a := by
    rw [← expField_abs64, hb, expField_abs64]
  by_cases hinvalid : expField a = 2047
  · exact .inl ⟨_, rfl, fun b hb => cvt_invalid ((hfield hb).trans hinvalid)⟩
  by_cases hunder : expField a ≤ 927
  · exact .inl ⟨_, rfl, fun b hb => cvt_underflow ((hfield hb).trans_le hunder)⟩
  by_cases hover : 1119 ≤ expField a
  · exact .inl ⟨_, rfl, fun b hb => cvt_overflow (hover.trans_eq (hfield hb).symm) (hfield hb ▸ hinvalid)⟩
  have hconverted {b : DWord} (hb : abs64 b = abs64 a) :
      cvt b = assemble (signBit b) (scaleMagnitude (magnitude a) (cvtExp a)) := by
    rw [← magnitude_abs64 a, ← hb, magnitude_abs64, cvtExp, ← hfield hb]
    exact cvt_converted (by rw [hfield hb]; omega) (by rw [hfield hb]; omega)
  by_cases hzero : roundMantissa (scaleMagnitude (magnitude a) (cvtExp a)).d = 0
  · exact .inl ⟨_, rfl, fun b hb => (hconverted hb).trans (assemble_zero hzero)⟩
  · obtain ⟨scale, M, hM, hfits, hpack⟩ :=
      (scaleMagnitude_inRange (a := a) (by omega) (by omega)).exists_pack hzero
    exact .inr ⟨scale, M, hM, hfits, fun b hb => (hconverted hb).trans (hpack _)⟩

theorem getLsbD_abs64 (a : DWord) (i : Nat) : (abs64 a).getLsbD i = (decide (i < 63) && a.getLsbD i) := by
  simp only [abs64, BitVec.getLsbD_append, BitVec.getLsbD_extractLsb', BitVec.getLsbD_zero]
  grind

theorem abs64_abs64 (a : DWord) : abs64 (abs64 a) = abs64 a :=
  BitVec.eq_of_toNat_eq (by rw [toNat_abs64, toNat_abs64, Nat.mod_mod])

theorem abs64_negative_twin (a : DWord) : abs64 (abs64 a ^^^ 0x8000000000000000#64) = abs64 a := by
  apply BitVec.eq_of_getLsbD_eq
  intro i hi
  have hbit : i < 63 → (0x8000000000000000#64).getLsbD i = false := by decide +revert
  rw [getLsbD_abs64, BitVec.getLsbD_xor, getLsbD_abs64]
  by_cases hlow : i < 63
  · simp [hbit hlow]
  · simp [hlow]

theorem signBit_negative_twin (a : DWord) : signBit (abs64 a ^^^ 0x8000000000000000#64) = true := by
  rw [signBit, BitVec.getLsbD_xor, ← signBit, signBit_abs64]
  rfl

/-- Settles O43: the layout of a packed record, and the two kinds of ending for an input and its twins. -/
theorem signOnlyInFlags : Obligations.SignOnlyInFlags := by
  refine ⟨fun sign scale m hscale hm => ?layout, rfl, fun a => ?twins, fun a hm => ?sign⟩
  case layout =>
    obtain ⟨hlo, hmid, hhi⟩ := pack_layout (sign := sign) (scale := scale) hm
    refine ⟨hlo, hmid, hhi, toNat_packFlags hscale, ?_, scale_pack hscale, sign_pack sign scale m⟩
    rw [mantissa_pack_eq, BitVec.toNat_ofNat, Nat.mod_eq_of_lt hm]
  case twins =>
    intro plus minus
    have habs := abs64_abs64 a
    have habs' := abs64_negative_twin a
    obtain ⟨e, he, hcvt⟩ | ⟨scale, M, hM, hfits, hcvt⟩ := cvt_cases a
    · have hplus : plus = e := hcvt _ habs
      have hminus : minus = e := hcvt _ habs'
      rw [hplus, hminus, he]
      exact ⟨rfl, rfl, fun hne => absurd rfl hne, fun _ => ⟨rfl, rfl⟩⟩
    · have hplus : plus = ok (pack false scale M) := signBit_abs64 a ▸ hcvt _ habs
      have hminus : minus = ok (pack true scale M) := signBit_negative_twin a ▸ hcvt _ habs'
      rw [hplus, hminus]
      exact ⟨(code_ok _).trans (code_ok _).symm, (mantissa_pack_eq true scale M).trans (mantissa_pack_eq false scale M).symm,
        fun _ => ⟨sign_pack false scale M, sign_pack true scale M, packFlags_true scale⟩,
        fun hzero => absurd hzero (mantissa_pack_ne_zero false scale hM hfits)⟩
  case sign =>
    obtain ⟨e, he, hcvt⟩ | ⟨scale, M, hM, hfits, hcvt⟩ := cvt_cases a
    · rw [hcvt a rfl, he] at hm
      exact absurd rfl hm
    · rw [hcvt a rfl]
      exact ⟨sign_pack _ _ _, sign_pack _ _ _⟩

end Sys2Proof.Machine
end

section
/-! O32 (40_convert.md R117). Each class of the exponent field has its ending; in the lowest converted octave the scale is
clamped to 28 and the mantissa is 0 or 1. -/

namespace Sys2Proof.Machine

@[simp] theorem delivered_ok (r : Record) : (ok r).delivered = r := rfl

/-- The lowest converted octave: the zero decimal up to one half, and `1 * 10 ^ -28` above. -/
theorem cvt_lowest {a : DWord} (h : expField a = 928) :
    ((scaleMagnitude (magnitude a) (cvtExp a)).d ≤ half → cvt a = ok .zero) ∧
      (half < (scaleMagnitude (magnitude a) (cvtExp a)).d → cvt a = ok (pack (signBit a) 28 1)) := by
  obtain ⟨hpower, hle⟩ := scaleMagnitude_lowest h
  have hF64 := (scaleMagnitude_inRange (a := a) (by omega) (by omega)).isF64
  have hzero_iff := roundMantissa_eq_zero_iff hF64
  rw [cvt_converted (by omega) (by omega)]
  constructor
  · exact fun hhalf => assemble_zero (hzero_iff.mpr hhalf)
  · intro hhalf
    have hne := mt hzero_iff.mp (not_le.mpr hhalf)
    have hone : roundMantissa (scaleMagnitude (magnitude a) (cvtExp a)).d = 1 := by
      have := roundMantissa_le hF64 hle
      omega
    rw [assemble_of_nonneg (by omega) hne, hone, hpower]
    rfl

theorem cvt_nonzero {a : DWord} (hlo : 929 ≤ expField a) (hhi : expField a < 1119) :
    ∃ r, cvt a = ok r ∧ r.mantissa ≠ 0#96 := by
  have hrange := scaleMagnitude_inRange (a := a) (by omega) hhi
  have hzero := mt (roundMantissa_eq_zero_iff hrange.isF64).mp (not_le.mpr (half_lt_scaleMagnitude hlo hhi))
  obtain ⟨scale, M, hM, hfits, hpack⟩ := hrange.exists_pack hzero
  exact ⟨_, (cvt_converted (by omega) hhi).trans (hpack _), mantissa_pack_ne_zero _ _ hM hfits⟩

/-- Settles O32: completion delivers the ending of the input's class. -/
theorem outcomeClasses : Obligations.OutcomeClasses := by
  intro s p hp
  refine ⟨_, exec_cvtF64_pending hp, fun h => ?zero, fun h => ?lowest, fun hlo hhi => ?nonzero, fun hlo hhi => ?overflow,
    fun h => ?invalid⟩ <;> rw [State.complete_err, State.complete_result]
  case zero =>
    rw [cvt_underflow h]
    exact ⟨rfl, rfl⟩
  case lowest =>
    obtain ⟨hzero, hone⟩ := cvt_lowest h
    rw [show (-94 : ℤ) = cvtExp p.a by rw [cvtExp, h]; rfl, magnitude_abs64]
    refine ⟨?_, fun hle => by rw [hzero hle, delivered_ok], fun hlt => ?_⟩
    · rcases le_or_gt (scaleMagnitude (magnitude p.a) (cvtExp p.a)).d half with hle | hlt
      · rw [hzero hle]; rfl
      · rw [hone hlt]; rfl
    · rw [hone hlt, delivered_ok]
      exact ⟨mantissa_pack_eq _ 28 1, scale_pack (by norm_num)⟩
  case nonzero =>
    obtain ⟨r, hcvt, hmantissa⟩ := cvt_nonzero hlo (by omega)
    rw [hcvt]
    exact ⟨rfl, hmantissa⟩
  case overflow =>
    rw [cvt_overflow hlo (by omega)]
    exact ⟨rfl, rfl⟩
  case invalid =>
    rw [cvt_invalid h]
    exact ⟨rfl, rfl⟩

end Sys2Proof.Machine
end

section
/-! O28, O26 and O29 (41_multiply.md R141, R144, R145). Both multiplies are exact (the lemmas of O41), so each law is one of
multiplying natural numbers, and `ovf` is the comparison of the product with 2^96. -/

namespace Sys2Proof.Machine

/-! ### MUL64x32 -/

theorem toNat_mul_toNat_lt {m n : Nat} (x : BitVec m) (y : BitVec n) : x.toNat * y.toNat < 2 ^ (m + n) :=
  (Nat.mul_lt_mul'' x.isLt y.isLt).trans_eq (pow_add 2 m n).symm

/-- Multiplying part by part: the product of the digits below c, and that of the digits above, in units of c. -/
theorem mul_eq_mod_mul_add_div_mul (c m k : Nat) : m * k = m % c * k + m / c * k * c :=
  calc m * k = (m % c + c * (m / c)) * k := by rw [Nat.mod_add_div]
    _ = m % c * k + m / c * k * c := by ring

/-- Settles O28: the product is exact, and the halves of m contribute a product each. -/
theorem narrowProductExact : Obligations.NarrowProductExact := fun m k =>
  ⟨toNat_mul64x32 m k, toNat_mul_toNat_lt m k,
    (toNat_mul64x32 m k).trans (mul_eq_mod_mul_add_div_mul (2 ^ 32) m.toNat k.toNat)⟩

/-! ### WIDE -/

theorem wide_snd_eq_false_iff (a b : DWord) : (wide a b).2 = false ↔ a.toNat * b.toNat < 2 ^ 96 := by
  rw [← Bool.not_eq_true, wide_snd_iff, not_le]

/-- Below 2^96, WIDE answers the word whose number is the product. -/
theorem wide_eq_of_lt {a b : DWord} {p : BitVec 128} (hp : p.toNat = a.toNat * b.toNat) (hlt : p.toNat < 2 ^ 96) :
    wide a b = (p, false) :=
  Prod.ext (BitVec.eq_of_toNat_eq ((toNat_wide_fst a b).trans hp.symm)) ((wide_snd_eq_false_iff a b).mpr (hp ▸ hlt))

theorem wide_comm (a b : DWord) : wide a b = wide b a := by
  rw [wide, wide, BitVec.mul_comm]

theorem wide_zero_left (b : DWord) : wide 0#64 b = (0#128, false) :=
  wide_eq_of_lt (by simp) (by simp)

theorem wide_one_left (b : DWord) : wide 1#64 b = (b.setWidth 128, false) := by
  have hb : (b.setWidth 128).toNat = b.toNat := BitVec.toNat_setWidth_of_le (by norm_num)
  exact wide_eq_of_lt (hb.trans (Nat.one_mul b.toNat).symm) (hb.trans_lt (b.isLt.trans (by norm_num)))

theorem wide_snd_of_lt_left {a : DWord} (b : DWord) (h : a.toNat < 2 ^ 32) : (wide a b).2 = false :=
  (wide_snd_eq_false_iff a b).mpr (Nat.mul_lt_mul'' (c := 2 ^ 32) (d := 2 ^ 64) h b.isLt)

/-- Overflow begins at the quotient 2^96 / b rounded up. -/
theorem wide_snd_iff_ceil_le (a : DWord) {b : DWord} (hb : b ≠ 0#64) :
    (wide a b).2 = true ↔ (2 ^ 96 + b.toNat - 1) / b.toNat ≤ a.toNat := by
  have hpos : 0 < b.toNat := Nat.pos_of_ne_zero fun h => hb (BitVec.eq_of_toNat_eq h)
  rw [wide_snd_iff, ← Nat.ceilDiv_eq_add_pred_div, ceilDiv_le_iff_le_mul hpos, Nat.mul_comm]

/-! ### MUL64 -/

theorem mul64_comm (a b : DWord) : mul64 a b = mul64 b a := by
  rw [mul64, mul64, wide_comm]

theorem mul64_overflow {a b : DWord} (h : (wide a b).2 = true) : mul64 a b = fail .overflow := if_pos h

/-- Settles O26: the exact product, the definition of `ovf`, what it means, and that it fails MUL64. -/
theorem wideProductExact : Obligations.WideProductExact := fun a b =>
  ⟨toNat_wide_fst a b, rfl, wide_snd_iff a b, mul64_overflow⟩

/-- Settles O29: each law by its lemma; an operand below 2^32 may stand on either side. -/
theorem wideLaws : Obligations.WideLaws := by
  intro a b
  refine ⟨wide_comm a b, mul64_comm a b, wide_zero_left b, wide_one_left b, wide_snd_iff a b, wide_snd_iff_ceil_le a, ?_⟩
  rintro (ha | hb)
  · exact wide_snd_of_lt_left b ha
  · rw [wide_comm]
    exact wide_snd_of_lt_left a hb

end Sys2Proof.Machine
end

section
/-! O27 (41_multiply.md R142). A partial product of two 32-bit halves fits its 64 bits. The accumulation is computed modulo
2^128, which loses nothing, because the sum is the exact product. -/

namespace Sys2Proof.Machine

theorem toNat_extractLsb'_lo (a : DWord) : (a.extractLsb' 0 32).toNat = a.toNat % 2 ^ 32 := by
  rw [BitVec.extractLsb'_toNat, Nat.shiftRight_zero]

theorem toNat_extractLsb'_hi (a : DWord) : (a.extractLsb' 32 32).toNat = a.toNat / 2 ^ 32 := by
  have := a.isLt
  rw [BitVec.extractLsb'_toNat, Nat.shiftRight_eq_div_pow]
  omega

theorem toNat_partialProduct (x y : Word) :
    ((x.setWidth 64 * y.setWidth 64 : DWord).setWidth 128).toNat = x.toNat * y.toNat := by
  rw [BitVec.toNat_setWidth_of_le (by norm_num), BitVec.toNat_mul, BitVec.toNat_setWidth_of_le (by norm_num),
    BitVec.toNat_setWidth_of_le (by norm_num)]
  exact Nat.mod_eq_of_lt (toNat_mul_toNat_lt x y)

theorem toNat_accumulate (x y z w : BitVec 128) :
    (x + ((y + z) <<< 32) + (w <<< 64)).toNat =
      (x.toNat + (y.toNat + z.toNat) * 2 ^ 32 + w.toNat * 2 ^ 64) % 2 ^ 128 := by
  simp only [BitVec.toNat_add, BitVec.toNat_shiftLeft, Nat.shiftLeft_eq, Nat.mod_mul_mod, Nat.mod_add_mod, Nat.add_mod_mod]

theorem mul_eq_sum_of_half_products (a b : Nat) :
    a * b = (a % 2 ^ 32) * (b % 2 ^ 32) +
      ((a % 2 ^ 32) * (b / 2 ^ 32) + (a / 2 ^ 32) * (b % 2 ^ 32)) * 2 ^ 32 +
      (a / 2 ^ 32) * (b / 2 ^ 32) * 2 ^ 64 :=
  calc a * b = (a % 2 ^ 32 + 2 ^ 32 * (a / 2 ^ 32)) * (b % 2 ^ 32 + 2 ^ 32 * (b / 2 ^ 32)) := by
        rw [Nat.mod_add_div, Nat.mod_add_div]
    _ = _ := by ring

theorem toNat_wideDatapath (a b : DWord) : (wideDatapath a b).toNat = a.toNat * b.toNat := by
  simp only [wideDatapath, toNat_accumulate, toNat_partialProduct, toNat_extractLsb'_lo, toNat_extractLsb'_hi]
  rw [← mul_eq_sum_of_half_products]
  exact Nat.mod_eq_of_lt (toNat_mul_toNat_lt a b)

/-- Settles O27: the datapath and WIDE have the same number, the product, which is the sum of the four half products. -/
theorem wideDatapathExact : Obligations.WideDatapathExact := fun a b =>
  ⟨BitVec.eq_of_toNat_eq ((toNat_wideDatapath a b).trans (toNat_wide_fst a b).symm),
    (toNat_wideDatapath a b).trans (mul_eq_sum_of_half_products a.toNat b.toNat)⟩

end Sys2Proof.Machine
end

section
/-! O30 (41_multiply.md R140, R143). A product that fits is packed like any mantissa, with sign 0 and scale 0, so the rules of
the packed record say what its words and its value are. -/

namespace Sys2Proof.Machine

theorem exec_mul64_pending {s : State} {p : Pend} (h : s.pend = some p) :
    exec .mul64 s = .next (s.complete (mul64 p.a p.b)) :=
  execMul64_pending s p h

/-- The flags word of an unsigned integer: sign 0 and scale 0 (10_state.md R27). -/
theorem packFlags_integer : packFlags false 0 = 0#32 := by decide

theorem value_pack {sign : Bool} {scale m : Nat} (hscale : scale < 256) (hm : m < 2 ^ 96) :
    (pack sign scale m).value = (if sign then -1 else 1) * (m : ℚ) / 10 ^ scale := by
  rw [Record.value, sign_pack, scale_pack hscale, mantissa_pack_eq, BitVec.toNat_ofNat, Nat.mod_eq_of_lt hm]

theorem mul64_eq_pack {a b : DWord} (h : a.toNat * b.toNat < 2 ^ 96) :
    mul64 a b = ok (pack false 0 (a.toNat * b.toNat)) := by
  have word (start : Nat) :
      (wide a b).1.extractLsb' start 32 = BitVec.ofNat 32 (a.toNat * b.toNat / 2 ^ start) := by
    rw [BitVec.extractLsb', toNat_wide_fst, Nat.shiftRight_eq_div_pow]
  rw [mul64, (wide_snd_eq_false_iff a b).mpr h, if_neg Bool.false_ne_true, word, word, word, pack, packFlags_integer,
    pow_zero, Nat.div_one]

/-- Settles O30: the completion of a product that fits, of one that does not, and what every completion does. -/
theorem multiplyCompletes : Obligations.MultiplyCompletes := by
  intro s p hp
  refine ⟨_, exec_mul64_pending hp, fun hfits => ?fits, fun hover => ?overflow, State.complete_done _ _,
    State.complete_busy _ _, State.complete_pend _ _, completionFrame_complete _ _⟩
  case fits =>
    obtain ⟨hlo, hmid, hhi⟩ := pack_layout (sign := false) (scale := 0) hfits
    rw [mul64_eq_pack hfits, State.complete_err, State.complete_result, delivered_ok]
    refine ⟨hlo, hmid, hhi, packFlags_integer, rfl, ?_⟩
    rw [value_pack (by norm_num) hfits]
    simp
  case overflow =>
    rw [mul64_overflow ((wide_snd_iff p.a p.b).mpr hover), State.complete_err, State.complete_result]
    exact ⟨rfl, rfl⟩

end Sys2Proof.Machine
end

section
/-! O22 (42_host_access.md R164). A write to CMD that is not held answers ACK and accepts its value, so the rules of
`State.accept` and of its STATUS word, with those of `State.respond`, say what each field becomes. -/

namespace Sys2Proof.Machine

/-- BUSY 0 is all that the write asks for: it is not held, whatever PEND says. -/
theorem exec_wr_cmd_accepts (s : State) (v : Word) (hb : s.busy = false) :
    exec (.wr 0x10#6 4 v) s = .next ((s.respond .ack).accept v) :=
  execWr_register s .cmd v hb

/-- Settles O22: each clause is the rule of acceptance for its field; what acceptance keeps, the answer keeps too. -/
theorem acceptanceLatchesOperands : Obligations.AcceptanceLatchesOperands := by
  intro s v _ hb
  refine ⟨_, exec_wr_cmd_accepts s v hb, State.accept_pend _ v, State.accept_busy _ v, State.accept_done _ v,
    State.accept_err _ v, State.accept_lastop _ v, ?reserved, ?record, ?opaLo, ?opaHi, ?opbLo, ?opbHi,
    s.writeReg_answered .cmd v .ack⟩
  case reserved => rw [State.accept_status, statusReserved_onAccept, State.respond_status]
  case record => rw [State.accept_result, State.respond_result]
  case opaLo => rw [State.accept_opaLo, State.respond_opaLo]
  case opaHi => rw [State.accept_opaHi, State.respond_opaHi]
  case opbLo => rw [State.accept_opbLo, State.respond_opbLo]
  case opbHi => rw [State.accept_opbHi, State.respond_opbHi]

end Sys2Proof.Machine
end

section
/-! O36 and O35 (60_exceptions.md R182, R185). CVT ends with INVALID_INPUT in one class of the exponent field only: below that
class an input underflows or is converted, both with NONE, or overflows. -/

namespace Sys2Proof.Machine

/-- The two causes of underflow end alike (40_convert.md R104, R112). -/
theorem cvt_of_underflow {a : DWord}
    (h : cvtExp a < -94 ∨ (-94 ≤ cvtExp a ∧ cvtExp a ≤ 96 ∧
      roundMantissa (scaleMagnitude (magnitude (abs64 a)) (cvtExp a)).d = 0)) :
    cvt a = ok .zero := by
  have hexp : cvtExp a = (expField a : ℤ) - 1022 := rfl
  rcases h with hsmall | ⟨hlo, hhi, hzero⟩
  · exact cvt_underflow (by omega)
  · rw [magnitude_abs64] at hzero
    exact (cvt_converted (by omega) (by omega)).trans (assemble_zero hzero)

/-- Settles O36: completion delivers the ending of an underflow. -/
theorem underflowIsNoError : Obligations.UnderflowIsNoError := by
  intro s p hp hunder
  refine ⟨_, exec_cvtF64_pending hp, ?_, ?_, State.complete_done _ _⟩
  · rw [State.complete_err, cvt_of_underflow hunder]
    rfl
  · rw [State.complete_result, cvt_of_underflow hunder, delivered_ok]

theorem code_cvt_converted {a : DWord} (hlo : 928 ≤ expField a) (hhi : expField a < 1119) : (cvt a).code = .none := by
  rw [cvt_converted hlo hhi]
  by_cases hzero : roundMantissa (scaleMagnitude (magnitude a) (cvtExp a)).d = 0
  · rw [assemble_zero hzero, code_ok]
  · obtain ⟨scale, M, -, -, hpack⟩ := (scaleMagnitude_inRange hlo hhi).exists_pack hzero
    rw [hpack, code_ok]

theorem code_cvt_eq_invalidInput_iff (a : DWord) : (cvt a).code = .invalidInput ↔ expField a = 2047 := by
  refine ⟨fun hcode => ?_, fun h => by rw [cvt_invalid h]; rfl⟩
  by_contra hne
  rcases le_or_gt (expField a) 927 with hunder | hlo
  · rw [cvt_underflow hunder] at hcode
    cases hcode
  rcases lt_or_ge (expField a) 1119 with hhi | hover
  · rw [code_cvt_converted hlo hhi] at hcode
    cases hcode
  · rw [cvt_overflow hover hne] at hcode
    cases hcode

/-- MUL64 ends with OVERFLOW or with a product. -/
theorem code_mul64_ne_invalidInput (a b : DWord) : (mul64 a b).code ≠ .invalidInput := by
  cases h : (wide a b).2 with
  | true =>
    rw [mul64_overflow h]
    exact Code.noConfusion
  | false =>
    rw [mul64_eq_pack ((wide_snd_eq_false_iff a b).mp h)]
    exact Code.noConfusion

/-- Settles O35: the class of the exponent field for CVT, the two endings for MUL64. -/
theorem invalidInputExactly : Obligations.InvalidInputExactly := fun a b =>
  ⟨code_cvt_eq_invalidInput_iff a, code_mul64_ne_invalidInput a b, cvt_invalid⟩

end Sys2Proof.Machine
end

section
/-! O50 (60_exceptions.md R187). Of the host's accesses only an acceptance touches ERR, and none touches the record: in every state, a read
and a write that is no 4-byte write to CMD keep both. So what an error leaves holds until the next command is accepted. -/

namespace Sys2Proof.Machine

theorem delivered_of_error {e : Ending} (h : e.code ≠ .none) : e.delivered = .zero := if_neg h

/-- A write to any register but CMD keeps ERR and the record. -/
theorem State.writeReg_keeps_outcome (s : State) {r : Reg} (v : Word) (hr : r ≠ .cmd) :
    (s.writeReg r v).err = s.err ∧ (s.writeReg r v).result = s.result := by
  cases r with
  | cmd => exact absurd rfl hr
  | _ => exact ⟨rfl, rfl⟩

/-- A RD keeps ERR and the record: it is held, or it is answered. -/
theorem exec_rd_keeps_outcome (s : State) (off : Offset) (width : Nat) :
    ∃ t, exec (.rd off width) s = .next t ∧ t.err = s.err ∧ t.result = s.result := by
  rcases execRd_cases s off width with ⟨hexec, -⟩ | ⟨hexec, -⟩ | ⟨hexec, -⟩
  · exact ⟨_, hexec, rfl, rfl⟩
  · exact ⟨_, hexec, s.respond_err _, s.respond_result _⟩
  · exact ⟨_, hexec, s.respond_err _, s.respond_result _⟩

/-- A WR that is no 4-byte write at the offset of CMD keeps ERR and the record: it is held, it writes another register, or it
answers BUSERR. -/
theorem exec_wr_keeps_outcome (s : State) {off : Offset} {width : Nat} (v : Word) (h : off.toNat ≠ 0x10 ∨ width ≠ 4) :
    ∃ t, exec (.wr off width v) s = .next t ∧ t.err = s.err ∧ t.result = s.result := by
  rcases execWr_cases s off width v with ⟨hexec, -⟩ | ⟨r, hr, hexec, hadmitted, -⟩ | ⟨hexec, -⟩
  · exact ⟨_, hexec, rfl, rfl⟩
  · obtain ⟨hwidth, -⟩ := (admitted_iff off width).mp hadmitted
    have hne : r ≠ .cmd := by
      rintro rfl
      rw [← offset_of_regAt off .cmd hr] at h
      exact h.elim (fun hoff => hoff rfl) (fun hw => hw hwidth)
    obtain ⟨herr, hresult⟩ := (s.respond .ack).writeReg_keeps_outcome v hne
    exact ⟨_, hexec, herr.trans (s.respond_err _), hresult.trans (s.respond_result _)⟩
  · exact ⟨_, hexec, s.respond_err _, s.respond_result _⟩

/-- Settles O50: what completion writes on an error, and what each kind of access does to it. -/
theorem errorLeavesNoPartialResult : Obligations.ErrorLeavesNoPartialResult := by
  intro s e he t
  have hresult : t.result = Record.zero := (s.complete_result e).trans (delivered_of_error he)
  have herr : t.err = e.code.bits := s.complete_err e
  refine ⟨hresult, herr, herr ▸ mt (Code.bits_eq_zero e.code).mp he, s.complete_opa e, s.complete_opb e,
    fun off width v => ⟨?read, fun hnot => ?write, ?command⟩⟩
  case read =>
    obtain ⟨u, hexec, hkeptErr, hkeptResult⟩ := exec_rd_keeps_outcome t off width
    exact ⟨u, hexec, hkeptErr, hkeptResult.trans hresult⟩
  case write =>
    obtain ⟨u, hexec, hkeptErr, hkeptResult⟩ := exec_wr_keeps_outcome t v hnot
    exact ⟨u, hexec, hkeptErr, hkeptResult.trans hresult⟩
  case command =>
    exact ⟨_, exec_wr_cmd_accepts t v (s.complete_busy e), State.accept_pend _ v, State.accept_err _ v,
      State.accept_busy _ v⟩

end Sys2Proof.Machine
end

section
/-! O1 and O2 (30_encoding.md R71, R76). The decoders and the encoder are inverse to each other: a command word is one of two
values, and a transaction word is its three fields. -/

namespace Sys2Proof

theorem decode_encode {i : Instr} (h : i.wellFormed = true) : decode (encode i) = .instr i := by
  cases i with
  | cvtF64 => exact decodeCmd_cvtF64
  | mul64 => exact decodeCmd_mul64
  | rd off width =>
    obtain rfl : width = 4 := eq_of_beq h
    exact decodeTw_packTw_rd off
  | wr off width value =>
    obtain rfl : width = 4 := eq_of_beq h
    exact decodeTw_packTw_wr off value

/-- What the command decoder accepts: the two values of the opcode map. -/
theorem eq_of_decodeCmd_instr {v : Word} {i : Instr} (h : decodeCmd v = .instr i) :
    v = 0x00000001#32 ∧ i = .cvtF64 ∨ v = 0x00000002#32 ∧ i = .mul64 := by
  rw [decodeCmd] at h
  split at h
  case isTrue hv =>
    cases h
    exact .inl ⟨hv, rfl⟩
  case isFalse =>
    split at h
    case isTrue hv =>
      cases h
      exact .inr ⟨hv, rfl⟩
    case isFalse => cases h

/-- What the transaction decoder accepts: the packed words of 4-byte accesses. -/
theorem eq_packTw_of_decodeTw_instr {w : Tw} {i : Instr} (h : decodeTw w = .instr i) :
    (∃ off, w = packTw 0b01#2 off 0#32 ∧ i = .rd off 4) ∨ ∃ off v, w = packTw 0b10#2 off v ∧ i = .wr off 4 v := by
  have hfields := packTw_fields w
  rw [decodeTw] at h
  split at h
  case isTrue hkind =>
    split at h
    case isTrue hdata =>
      cases h
      exact .inl ⟨_, by rw [hkind, hdata] at hfields; exact hfields.symm, rfl⟩
    case isFalse => cases h
  case isFalse =>
    split at h
    case isTrue hkind =>
      cases h
      exact .inr ⟨_, _, by rw [hkind] at hfields; exact hfields.symm, rfl⟩
    case isFalse => cases h

end Sys2Proof

namespace Sys2Proof.Machine

/-- Settles O1: each instruction's word is one the decoder's rules are stated for. -/
theorem decodeOfEncode : Obligations.DecodeOfEncode := fun _ => decode_encode

/-- Settles O2: the words the decoders accept are the encodings of what they spell. -/
theorem encodeOfDecode : Obligations.EncodeOfDecode := by
  intro e i h
  cases e with
  | cmd v =>
    obtain ⟨rfl, rfl⟩ | ⟨rfl, rfl⟩ := eq_of_decodeCmd_instr h
    · exact ⟨rfl, rfl⟩
    · exact ⟨rfl, rfl⟩
  | tw w =>
    obtain ⟨off, rfl, rfl⟩ | ⟨off, v, rfl, rfl⟩ := eq_packTw_of_decodeTw_instr h
    · exact ⟨rfl, rfl⟩
    · exact ⟨rfl, rfl⟩

/-- Settles O3: the words of the two commands, and the packed words of four accesses. -/
theorem writtenWordsDecode : Obligations.WrittenWordsDecode :=
  ⟨decodeCmd_cvtF64, decodeCmd_mul64, decodeTw_packTw_rd 0x14#6, decodeTw_packTw_rd 0x24#6,
    decodeTw_packTw_wr 0x10#6 1#32, decodeTw_packTw_wr 0x04#6 0xFFFFFFFF#32⟩

end Sys2Proof.Machine
end

section
/-! The scale of every record CVT delivers is at most 28 (10_state.md R26): the estimate is clamped there, renormalisation goes
up to it, and factoring only takes from it. -/

namespace Sys2Proof.Machine

/-! ### The working scale -/

theorem power_scaleUp_le (d : Nat) (power0 : ℤ) : (scaleUp d power0).power ≤ 28 := min_le_right power0 28

theorem power_scaleDown_le (d : Nat) {power0 : ℤ} (h : power0 ≤ 28) : (scaleDown d power0).power ≤ 28 := by
  rw [scaleDown]
  split
  case isTrue => exact h
  case isFalse => norm_num

theorem power_renorm_le {x : Scaled} (h : x.power ≤ 28) : (renorm x).power ≤ 28 := by
  obtain heq | ⟨heq, -, hlt⟩ := renorm_cases x
  · rwa [heq]
  · rw [heq]
    exact hlt

theorem power_scaleMagnitude_le (d : Nat) (exp : ℤ) : (scaleMagnitude d exp).power ≤ 28 := by
  rw [scaleMagnitude]
  apply power_renorm_le
  split
  case isTrue => exact power_scaleUp_le d _
  case isFalse hneg => exact power_scaleDown_le d (by omega)

/-! ### The factored scale -/

theorem factorStep_power_le (k : Nat) (f : Factoring) : (factorStep k f).power ≤ f.power := by
  rw [factorStep]
  split
  case isTrue => exact Int.sub_le_self _ (Int.natCast_nonneg k)
  case isFalse => exact le_rfl

theorem factor_power_le (mant : Nat) (power : ℤ) : (factor mant power).power ≤ power :=
  calc (factor mant power).power
      ≤ (factorStep 2 (factorStep 4 (factorStep 8 ⟨mant, power, min power 14⟩))).power := factorStep_power_le 1 _
    _ ≤ (factorStep 4 (factorStep 8 ⟨mant, power, min power 14⟩)).power := factorStep_power_le 2 _
    _ ≤ (factorStep 8 ⟨mant, power, min power 14⟩).power := factorStep_power_le 4 _
    _ ≤ power := factorStep_power_le 8 _

/-! ### The flags word of a delivered record -/

/-- The reserved bits of a flags word are 0 and its scale is 0 to 28 (10_state.md R26). -/
structure Record.FlagsLegal (r : Record) : Prop where
  reserved : flagsReserved r.flags = 0#32
  scale_le : r.scale ≤ 28

theorem flagsLegal_zero : Record.zero.FlagsLegal := ⟨by decide, by decide⟩

theorem flagsReserved_packFlags (sign : Bool) (scale : Nat) : flagsReserved (packFlags sign scale) = 0#32 := by
  apply BitVec.eq_of_getLsbD_eq
  intro i hi
  have hmask : ∀ i < 32, 16 ≤ i ∧ i < 24 ∨ i = 31 → (0x7F00FFFF#32).getLsbD i = false := by decide
  rw [flagsReserved, BitVec.getLsbD_and, BitVec.getLsbD_zero]
  by_cases hfield : 16 ≤ i ∧ i < 24 ∨ i = 31
  · rw [hmask i hi hfield, Bool.and_false]
  · simp only [packFlags, BitVec.getLsbD_append, BitVec.getLsbD_zero, BitVec.getLsbD_ofBool]
    grind

theorem flagsLegal_pack (sign : Bool) {scale : Nat} (m : Nat) (h : scale ≤ 28) : (pack sign scale m).FlagsLegal :=
  ⟨flagsReserved_packFlags sign scale, (scale_pack (by omega)).trans_le h⟩

theorem flagsLegal_assemble (sign : Bool) {x : Scaled} (h : x.power ≤ 28) : (assemble sign x).record.FlagsLegal := by
  rw [assemble, assembleMantissa]
  split
  case isTrue => exact flagsLegal_zero
  case isFalse =>
    split
    case isTrue =>
      split
      case h_1 => exact flagsLegal_zero
      case h_2 => exact flagsLegal_pack sign _ (by norm_num)
    case isFalse =>
      have hle := factor_power_le (roundMantissa x.d) x.power
      exact flagsLegal_pack sign _ (by omega)

theorem flagsLegal_cvt (a : DWord) : (cvt a).record.FlagsLegal := by
  rw [cvt]
  split_ifs
  case neg => exact flagsLegal_assemble _ (power_scaleMagnitude_le _ _)
  all_goals exact flagsLegal_zero

theorem flagsLegal_mul64 (a b : DWord) : (mul64 a b).record.FlagsLegal := by
  cases h : (wide a b).2 with
  | true =>
    rw [mul64_overflow h]
    exact flagsLegal_zero
  | false =>
    rw [mul64_eq_pack ((wide_snd_eq_false_iff a b).mp h)]
    exact flagsLegal_pack false _ (by norm_num)

theorem flagsLegal_dispatch (p : Pend) : (dispatch p).record.FlagsLegal := by
  rw [dispatch]
  split_ifs
  exacts [flagsLegal_cvt p.a, flagsLegal_mul64 p.a p.b, flagsLegal_zero]

theorem flagsLegal_delivered {e : Ending} (h : e.record.FlagsLegal) : e.delivered.FlagsLegal := by
  rw [Ending.delivered]
  split_ifs
  exacts [h, flagsLegal_zero]

end Sys2Proof.Machine
end

section
/-! O15 and O14 (10_state.md sections 3 to 5). Legality reads STATUS, the record and PEND only. So it is kept by whatever leaves
these three; acceptance, completion and reset write them, and each is shown to write them legally. -/

namespace Sys2Proof.Machine

/-- Settles O15: with nothing pending and every register 0 each clause is about fixed words. -/
theorem resetIsLegal : Obligations.ResetIsLegal where
  busy_iff_pending := by decide
  busy_clears := by decide
  status_reserved := by decide
  err_range := by decide
  flags_reserved := by decide
  scale_range := by decide
  pending_lastop := fun _ h => nomatch h
  error_zero := fun _ => rfl
  idle_undone := fun _ _ => ⟨rfl, rfl⟩

/-- What legality reads. -/
theorem State.Legal.congr {s t : State} (h : s.Legal) (hstatus : t.status = s.status) (hresult : t.result = s.result)
    (hpend : t.pend = s.pend) : t.Legal := by
  have hflags : t.resFlags = s.resFlags := congrArg Record.flags hresult
  obtain ⟨hbusy, hclears, hreserved, herr, hflagsReserved, hscale, hlastop, hzero, hidle⟩ := h
  simp only [State.busy, State.done, State.err, State.lastop] at *
  constructor <;> simp only [State.busy, State.done, State.err, State.lastop, hstatus, hresult, hpend, hflags] <;> assumption

theorem State.Legal.respond {s : State} (h : s.Legal) (a : Answer) : (s.respond a).Legal := h.congr rfl rfl rfl

/-- The block is busy with a clean STATUS and the old record. -/
theorem State.Legal.accept {s : State} (h : s.Legal) (v : Word) : (s.accept v).Legal where
  busy_iff_pending := s.accept_busy v
  busy_clears := fun _ => ⟨s.accept_done v, s.accept_err v⟩
  status_reserved := (statusReserved_onAccept s.status v).trans h.status_reserved
  err_range := by simp
  flags_reserved := h.flags_reserved
  scale_range := h.scale_range
  pending_lastop := fun p hp => by
    cases hp
    exact s.accept_lastop v
  error_zero := fun herr => absurd (s.accept_err v) herr
  idle_undone := fun hidle => by simp at hidle

theorem State.Legal.writeReg {s : State} (h : s.Legal) (r : Reg) (v : Word) : (s.writeReg r v).Legal := by
  cases r with
  | cmd => exact h.accept v
  | _ => exact h.congr rfl rfl rfl

/-- The block is done, with the record of the ending or none. -/
theorem State.Legal.complete {s : State} (h : s.Legal) {e : Ending} (he : e.record.FlagsLegal) : (s.complete e).Legal where
  busy_iff_pending := s.complete_busy e
  busy_clears := fun hbusy => by simp at hbusy
  status_reserved := (statusReserved_onComplete s.status e.code).trans h.status_reserved
  err_range := (s.complete_err e).symm ▸ Code.bits_le_three e.code
  flags_reserved := (flagsLegal_delivered he).reserved
  scale_range := (flagsLegal_delivered he).scale_le
  pending_lastop := fun _ hp => nomatch hp
  error_zero := fun herr => by
    rw [State.complete_err, ne_eq, Code.bits_eq_zero] at herr
    exact delivered_of_error herr
  idle_undone := fun _ hdone => by simp at hdone

theorem State.legal_assertReset (s : State) : s.assertReset.Legal := resetIsLegal.congr rfl rfl rfl

/-- Settles O14: each thing a step can do keeps legality. -/
theorem stepKeepsLegal : Obligations.StepKeepsLegal := by
  intro s t h hstep
  obtain rfl | ⟨a, rfl⟩ | ⟨r, v, -, rfl⟩ | ⟨p, -, rfl⟩ | rfl := step_next_cases s t hstep
  · exact h
  · exact h.respond a
  · exact (h.respond .ack).writeReg r v
  · exact h.complete (flagsLegal_dispatch p)
  · exact s.legal_assertReset

end Sys2Proof.Machine
end

section
/-! O7, O8, O9 and O52 (42_host_access.md R165, R167, R168; 70_reset_and_hazards.md R211). Whose turn the next step is: one rule
for each case of `State.fetch`, from which each statement about the step follows by what `step` does with that case. -/

namespace Sys2Proof.Machine

/-! ### The host's oldest input -/

theorem hostFetch_cons {s : State} {x : HostInput} {rest : List HostInput} (h : s.inputs = x :: rest) :
    s.hostFetch = inputFetch x := by
  simp only [State.hostFetch, h]

theorem resetBehind_iff (s : State) : s.resetBehind = true ↔ ∃ x rest, s.inputs = x :: .reset :: rest := by
  rw [State.resetBehind]
  split
  case h_1 x rest h => simp [h]
  case h_2 hnot => simpa using hnot

theorem holds_rd (s : State) (off : Offset) (width : Nat) :
    s.holds (.rd off width) = (admitted off width && s.holdsRead off) := rfl

theorem holds_wr (s : State) (off : Offset) (width : Nat) (v : Word) :
    s.holds (.wr off width v) = (admitted off width && s.busy) := rfl

/-! ### Whose turn it is -/

theorem fetch_of_pend_none {s : State} (h : s.pend = none) : s.fetch = s.hostFetch := by
  simp only [State.fetch, h]

theorem fetch_of_access {s : State} {i : Instr} (hf : s.hostFetch = .instr i)
    (hturn : s.pend = none ∨ s.delay ≠ 0 ∧ s.holds i = false) : s.fetch = .instr i := by
  cases hp : s.pend with
  | none => rw [fetch_of_pend_none hp, hf]
  | some p =>
    obtain ⟨hdelay, hholds⟩ := hturn.resolve_left (by simp [hp])
    simp [State.fetch, hp, hdelay, hf, hholds]

/-- An input that is no access is taken while the host has the turn. -/
theorem fetch_of_no_access {s : State} {f : Fetched} (hf : s.hostFetch = f) (hidle : f ≠ .idle)
    (hinstr : ∀ i, f ≠ .instr i) (hturn : s.pend = none ∨ s.delay ≠ 0) : s.fetch = f := by
  cases hp : s.pend with
  | none => rw [fetch_of_pend_none hp, hf]
  | some p =>
    have hdelay := hturn.resolve_left (by simp [hp])
    cases f with
    | idle => exact absurd rfl hidle
    | instr i => exact absurd rfl (hinstr i)
    | _ => simp [State.fetch, hp, hdelay, hf]

/-- A held access lets the unit complete, whatever is left of the delay. -/
theorem fetch_of_held {s : State} {p : Pend} {i : Instr} (hp : s.pend = some p) (hf : s.hostFetch = .instr i)
    (hholds : s.holds i = true) (hreset : s.resetBehind = false) : s.fetch = unitFetch p := by
  simp [State.fetch, hp, hf, hholds, hreset]

/-- A reset asserted behind a held access comes first while the delay has not run out. -/
theorem fetch_of_reset_behind_held {s : State} {p : Pend} {i : Instr} (hp : s.pend = some p) (hdelay : s.delay ≠ 0)
    (hf : s.hostFetch = .instr i) (hholds : s.holds i = true) (hreset : s.resetBehind = true) : s.fetch = .reset := by
  simp [State.fetch, hp, hdelay, hf, hholds, hreset]

/-! ### The step -/

/-- The step on an access whose turn it is. -/
theorem step_of_access {s : State} {x : HostInput} {rest : List HostInput} {i : Instr} (hs : s.inputs = x :: rest)
    (hx : inputFetch x = .instr i) (hturn : s.pend = none ∨ s.delay ≠ 0 ∧ s.holds i = false) : step s = exec i s :=
  step_of_fetch_instr s i (fetch_of_access ((hostFetch_cons hs).trans hx) hturn)

/-- The unit's step once the delay has run out or nothing is issued. -/
theorem step_of_unit_turn {s : State} {p : Pend} (hp : s.pend = some p) (h : s.delay = 0 ∨ s.inputs = []) :
    step s = .next (s.complete (dispatch p)) :=
  step_of_unitFetch s p hp (fetch_of_unit_turn s p hp h)

/-- Settles O7: the access whose turn it is, and the unit's command. -/
theorem stepRunsDecodedInstruction : Obligations.StepRunsDecodedInstruction := by
  refine ⟨fun s x rest i hs hx hturn => step_of_access hs (inputFetch_of_spells x i hx) hturn,
    fun s p i hp hdecode hturn => step_of_fetch_instr s i ?_⟩
  rw [fetch_of_unit_turn s p hp hturn, unitFetch, hdecode]

/-! ### What is no access -/

theorem inputFetch_word_no_kind {w : Tw} (h : twKind w = 0b00#2 ∨ twKind w = 0b11#2) :
    inputFetch (.word w) = .kindSpellsNoTransaction := by
  rcases h with h | h <;> simp [inputFetch, decodeTw, h]

theorem inputFetch_word_rd_data {w : Tw} (hkind : twKind w = 0b01#2) (hdata : twData w ≠ 0#32) :
    inputFetch (.word w) = .readCarriesData := by
  simp [inputFetch, decodeTw, hkind, hdata]

theorem inputFetch_mem_outside {addr : Nat} (width : Nat) (data : Option Word)
    (h : addr < Config.cvtBase ∨ Config.cvtBase + 64 ≤ addr) : inputFetch (.mem addr width data) = .outsideWindow := by
  simp only [inputFetch, windowOffset_outside addr h]

/-- Settles O8: each such input is fetched under its own name, and the step stops on it. -/
theorem stepStopsOnNoTransaction : Obligations.StepStopsOnNoTransaction := by
  intro s rest hturn
  refine ⟨fun w hs hkind => ?kind, fun w hs hkind hdata => ?data, fun addr width data hs haddr => ?window⟩
  case kind =>
    have hf := (hostFetch_cons hs).trans (inputFetch_word_no_kind hkind)
    rw [step, fetch_of_no_access hf (by simp) (by simp) hturn]
  case data =>
    have hf := (hostFetch_cons hs).trans (inputFetch_word_rd_data hkind hdata)
    rw [step, fetch_of_no_access hf (by simp) (by simp) hturn]
  case window =>
    have hf := (hostFetch_cons hs).trans (inputFetch_mem_outside width data haddr)
    rw [step, fetch_of_no_access hf (by simp) (by simp) hturn]

/-! ### Final states -/

theorem final_iff (s : State) : s.final = true ↔ s.inputs = [] ∧ s.pend = none := by
  simp [State.final]

/-- Settles O9: in a final state no agent has a step. -/
theorem finalStatesIdle : Obligations.FinalStatesIdle := by
  refine fun s => ⟨final_iff s, fun hfinal => ?_⟩
  obtain ⟨hinputs, hpend⟩ := (final_iff s).mp hfinal
  have hfetch : s.fetch = .idle := by rw [fetch_of_pend_none hpend, State.hostFetch, hinputs]
  rw [step, hfetch]

/-! ### Reset -/

theorem sameRegisters_assertReset (s : State) : SameRegisters State.reset s.assertReset := by constructor <;> rfl

/-- A held access goes with the assertion that stands behind it (70_reset_and_hazards.md R211). -/
theorem afterReset_held {x : HostInput} {i : Instr} (rest : List HostInput) (hx : inputFetch x = .instr i) :
    afterReset (x :: .reset :: rest) = rest := by
  cases x with
  | reset => cases hx
  | resetInAccess => cases hx
  | _ => rfl

/-- Settles O52: in each of the three cases the step asserts reset, and the host keeps what is behind it. -/
theorem resetDiscardsPendingCommand : Obligations.ResetDiscardsPendingCommand := by
  intro s rest h
  have hasserted (hfetch : s.fetch = .reset) (hrest : afterReset s.inputs = rest) :
      ∃ t, step s = .next t ∧ SameRegisters State.reset t ∧ t.inputs = rest ∧ t.answers = s.answers :=
    ⟨_, step_of_fetch_reset s hfetch, sameRegisters_assertReset s, hrest, s.assertReset_answers⟩
  rcases h with ⟨hs, hturn⟩ | ⟨off, width, data, hs, hturn⟩ | ⟨x, i, p, hs, hp, hdelay, hx, hholds⟩
  · exact hasserted (fetch_of_no_access (hostFetch_cons hs) Fetched.noConfusion (fun _ => Fetched.noConfusion) hturn)
      (by rw [hs, afterReset])
  · exact hasserted (fetch_of_no_access (hostFetch_cons hs) Fetched.noConfusion (fun _ => Fetched.noConfusion) hturn)
      (by rw [hs, afterReset])
  · have hbehind := (resetBehind_iff s).mpr ⟨x, rest, hs⟩
    exact hasserted (fetch_of_reset_behind_held hp hdelay ((hostFetch_cons hs).trans hx) hholds hbehind)
      (by rw [hs, afterReset_held rest hx])

end Sys2Proof.Machine
end

section
/-! O10 and O31 (42_host_access.md R165, R166). Completion writes DISPATCH's ending, and what it writes and leaves is said by the
rules of `State.complete`; the ending is that of the pending value's row of DISPATCH. -/

namespace Sys2Proof.Machine

theorem dispatch_cvtF64 {p : Pend} (h : p.v = 1#32) : dispatch p = cvt p.a := if_pos h

theorem dispatch_mul64 {p : Pend} (h : p.v = 2#32) : dispatch p = mul64 p.a p.b := by
  rw [dispatch, h, if_neg (by decide), if_pos rfl]

theorem dispatch_illegal {p : Pend} (hcvt : p.v ≠ 1#32) (hmul : p.v ≠ 2#32) : dispatch p = fail .illegalCmd := by
  rw [dispatch, if_neg hcvt, if_neg hmul]

theorem delivered_of_none {e : Ending} (h : e.code = .none) : e.delivered = e.record := if_pos h

theorem complete_outcome (s : State) (e : Ending) :
    (s.complete e).err = e.code.bits ∧ (s.complete e).result = if e.code = .none then e.record else Record.zero :=
  ⟨s.complete_err e, s.complete_result e⟩

/-- A command is not performed while PEND is empty (42_host_access.md R165). -/
theorem exec_command_not_enabled {s : State} (h : s.pend = none) :
    exec .cvtF64 s = .fault .completionNotEnabled ∧ exec .mul64 s = .fault .completionNotEnabled := by
  simp [exec, execCvtF64, execMul64, h]

/-- Settles O10: the unit's turn is the completion, read for each row of DISPATCH. -/
theorem completionWritesOutcome : Obligations.CompletionWritesOutcome := by
  refine ⟨fun s p hp hturn => ⟨_, step_of_unit_turn hp hturn, fun hv => ?cvt, fun hv => ?mul, fun ⟨hcvt, hmul⟩ => ?illegal,
    s.complete_done _, s.complete_busy _, s.complete_pend _, completionFrame_complete s _⟩,
    fun s => exec_command_not_enabled⟩
  case cvt => exact dispatch_cvtF64 hv ▸ complete_outcome s _
  case mul => exact dispatch_mul64 hv ▸ complete_outcome s _
  case illegal => exact dispatch_illegal hcvt hmul ▸ complete_outcome s _

/-- Settles O31: CVT_F64 completes with the ending of CVT; ERR 0 is the code NONE. -/
theorem convertCompletes : Obligations.ConvertCompletes := by
  intro s p hp
  refine ⟨_, exec_cvtF64_pending hp, s.complete_err _, fun herr => ?record, fun herr => ?zero, s.complete_done _,
    s.complete_busy _, s.complete_pend _, completionFrame_complete s _⟩
  case record =>
    rw [State.complete_err, Code.bits_eq_zero] at herr
    rw [State.complete_result, delivered_of_none herr]
  case zero =>
    rw [State.complete_err, ne_eq, Code.bits_eq_zero] at herr
    rw [State.complete_result, delivered_of_error herr]

end Sys2Proof.Machine
end

section
/-! O16 to O19 and O21 (42_host_access.md R160 to R162). One access, in three cases: it is not admitted, it is held, or it is
answered. -/

namespace Sys2Proof.Machine

/-! ### The three cases of an access -/

/-- The access is admitted (42_host_access.md R162); a command of the unit is no access. -/
def admittedAccess : Instr → Bool
  | .cvtF64 => false
  | .mul64 => false
  | .rd off width => admitted off width
  | .wr off width _ => admitted off width

theorem admitted_eq_false {off : Offset} {width : Nat} (h : ¬(width = 4 ∧ off.toNat % 4 = 0 ∧ off.toNat ≤ 0x24)) :
    admitted off width = false := by
  rwa [← Bool.not_eq_true, admitted_iff]

theorem holdsRead_of_not_busy {s : State} (h : s.busy = false) (off : Offset) : s.holdsRead off = false := by
  rw [State.holdsRead, h, Bool.false_and]

theorem holdsRead_status (s : State) : s.holdsRead 0x14#6 = false := by
  simp [State.holdsRead]

theorem holdsRead_of_busy {s : State} (h : s.busy = true) {off : Offset} (hoff : off.toNat ≠ 0x14) :
    s.holdsRead off = true := by
  rw [State.holdsRead, h, Bool.true_and, bne_iff_ne]
  rintro rfl
  exact hoff rfl

/-- A held access waits: exec answers the same state (entry 5). -/
theorem exec_held {s : State} {i : Instr} (h : s.holds i = true) : exec i s = .next s := by
  cases i with
  | cvtF64 => cases h
  | mul64 => cases h
  | rd off width =>
    obtain ⟨hadm, hheld⟩ := Bool.and_eq_true_iff.mp h
    simp [exec, execRd, hadm, hheld]
  | wr off width v =>
    obtain ⟨hadm, hheld⟩ := Bool.and_eq_true_iff.mp h
    simp [exec, execWr, hadm, hheld]

/-- An admitted access that is not held is answered, and not with BUSERR. -/
theorem exec_answered {s : State} {i : Instr} (hadm : admittedAccess i = true) (hholds : s.holds i = false) :
    ∃ t a, exec i s = .next t ∧ Answered s t a ∧ a ≠ .busErr := by
  cases i with
  | cvtF64 => cases hadm
  | mul64 => cases hadm
  | rd off width =>
    rcases execRd_cases s off width with ⟨-, -, hheld⟩ | ⟨hexec, -⟩ | ⟨-, hnot⟩
    · rw [holds_rd, hheld, show admitted off width = true from hadm] at hholds
      cases hholds
    · exact ⟨_, _, hexec, ⟨rfl, rfl⟩, Answer.noConfusion⟩
    · exact absurd (hadm.symm.trans hnot) Bool.noConfusion
  | wr off width v =>
    rcases execWr_cases s off width v with ⟨-, -, hbusy⟩ | ⟨r, -, hexec, -⟩ | ⟨-, hnot⟩
    · rw [holds_wr, hbusy, show admitted off width = true from hadm] at hholds
      cases hholds
    · exact ⟨_, _, hexec, s.writeReg_answered r v .ack, Answer.noConfusion⟩
    · exact absurd (hadm.symm.trans hnot) Bool.noConfusion

theorem exec_rd_register {s : State} (r : Reg) (hheld : s.holdsRead r.offset = false) :
    exec (.rd r.offset 4) s = .next (s.respond (.data (s.readReg r))) :=
  execRd_register s r hheld

theorem exec_rd_status (s : State) : exec (.rd 0x14#6 4) s = .next (s.respond (.data s.status)) :=
  exec_rd_register .status (holdsRead_status s)

/-- Settles O16: the register of each offset, the hold, and BUSERR. -/
theorem readAnswersRegister : Obligations.ReadAnswersRegister := by
  intro s
  refine ⟨fun hidle => ?registers, exec_rd_status s, fun hbusy off haligned hle hoff => ?held,
    fun off width hnot => execRd_not_admitted s off width (admitted_eq_false hnot)⟩
  case registers =>
    have hread (r : Reg) := exec_rd_register r (holdsRead_of_not_busy hidle r.offset)
    exact ⟨hread .opaLo, hread .opaHi, hread .opbLo, hread .opbHi, hread .cmd, hread .resLo, hread .resMid, hread .resHi,
      hread .resFlags⟩
  case held =>
    exact execRd_held s off ((admitted_iff off 4).mpr ⟨rfl, haligned, hle⟩) (holdsRead_of_busy hbusy hoff)

/-- Settles O17: the register of each offset, the hold, and BUSERR. -/
theorem writeReachesRegister : Obligations.WriteReachesRegister := by
  intro s v
  refine ⟨fun hidle => ?registers,
    fun hbusy off haligned hle => execWr_held s off v ((admitted_iff off 4).mpr ⟨rfl, haligned, hle⟩) hbusy,
    fun off width hnot => execWr_not_admitted s off width v (admitted_eq_false hnot)⟩
  case registers =>
    have hwrite (r : Reg) := execWr_register s r v hidle
    exact ⟨hwrite .opaLo, hwrite .opaHi, hwrite .opbLo, hwrite .opbHi, hwrite .cmd, hwrite .status, hwrite .resLo,
      hwrite .resMid, hwrite .resHi, hwrite .resFlags⟩

theorem exec_busErr {s : State} {off : Offset} {width : Nat} {v : Word} {i : Instr}
    (hi : i = .rd off width ∨ i = .wr off width v) (hnot : admitted off width = false) :
    exec i s = .next (s.respond .busErr) := by
  rcases hi with rfl | rfl
  · exact execRd_not_admitted s off width hnot
  · exact execWr_not_admitted s off width v hnot

/-- Settles O18: an access that is not admitted answers BUSERR and nothing more; an admitted one is held or answered otherwise. -/
theorem busErrorChangesNothing : Obligations.BusErrorChangesNothing := by
  intro s off width v i hi
  refine ⟨fun hnot => ?refused, fun hadm => ?admitted⟩
  case refused =>
    exact ⟨_, exec_busErr hi (admitted_eq_false hnot), ⟨rfl, rfl⟩, sameRegisters_respond s _⟩
  case admitted =>
    have hadm' : admittedAccess i = true := by
      rcases hi with rfl | rfl <;> exact (admitted_iff off width).mpr hadm
    cases hholds : s.holds i with
    | true => exact ⟨s, exec_held hholds, by simp⟩
    | false =>
      obtain ⟨t, a, hexec, ⟨hanswers, -⟩, ha⟩ := exec_answered hadm' hholds
      exact ⟨t, hexec, by simpa [hanswers] using ha⟩

/-! ### Reads -/

/-- A read that is not held is answered from what it reads alone, so the next one is answered the same. -/
theorem exec_rd_twice {s : State} {off : Offset} {width : Nat}
    (hheld : (admitted off width && s.holdsRead off) = false) :
    ∃ a, exec (.rd off width) s = .next (s.respond a) ∧
      exec (.rd off width) (s.respond a) = .next ((s.respond a).respond a) := by
  cases hadm : admitted off width with
  | false =>
    exact ⟨.busErr, execRd_not_admitted s off width hadm, execRd_not_admitted _ off width hadm⟩
  | true =>
    rw [hadm, Bool.true_and] at hheld
    have hheld' (a : Answer) : (s.respond a).holdsRead off = false := hheld
    have hread (a : Answer) : (s.respond a).readAt off = s.readAt off := by
      rw [State.readAt, State.readAt]
      cases regAt off with
      | none => rfl
      | some r => exact (sameRegisters_respond s a).readReg_eq r
    refine ⟨.data (s.readAt off), ?_, ?_⟩ <;> simp [exec, execRd, hadm, hheld, hheld', hread]

/-- Settles O19: a held read leaves the state, any other is answered, and answered the same again. -/
theorem readsChangeNothing : Obligations.ReadsChangeNothing := by
  intro s off width
  have hsame : SameRegisters s s := by constructor <;> rfl
  cases hheld : admitted off width && s.holdsRead off with
  | true =>
    have hexec : exec (.rd off width) s = .next s := exec_held (i := .rd off width) hheld
    exact ⟨s, s, hexec, hsame, hexec, hsame, by simp⟩
  | false =>
    obtain ⟨a, hfirst, hsecond⟩ := exec_rd_twice hheld
    refine ⟨_, _, hfirst, sameRegisters_respond s a, hsecond, ?_, ?_⟩
    · constructor <;> rfl
    · rw [if_neg Bool.false_ne_true]
      exact ⟨a, ⟨rfl, rfl⟩, ⟨rfl, rfl⟩⟩

/-! ### The operands -/

/-- An operand register stores what is written to it, and is read back while nothing is pending. -/
theorem exec_wr_rd_back {s : State} (r : Reg) (v : Word) (hidle : s.busy = false) (hr : (s.writeReg r v).readReg r = v)
    (hbusy : (s.writeReg r v).busy = false) :
    ∃ t u, exec (.wr r.offset 4 v) s = .next t ∧ exec (.rd r.offset 4) t = .next u ∧ Answered t u (.data v) := by
  obtain ⟨t, hwrite, hanswer, hregs⟩ := exec_wr_register s r v hidle
  have hread := exec_rd_register (s := t) r (holdsRead_of_not_busy (hregs.busy_eq.trans hbusy) r.offset)
  rw [hregs.readReg_eq r, hr] at hread
  exact ⟨t, _, hwrite, hread, rfl, rfl⟩

/-- All a command of the unit does is complete, legal or not. -/
theorem eq_complete_of_command {s t : State}
    (h : exec .cvtF64 s = .next t ∨ exec .mul64 s = .next t ∨ s.completeIllegal = t) : ∃ e, t = s.complete e := by
  cases hp : s.pend with
  | none =>
    obtain ⟨hcvt, hmul⟩ := exec_command_not_enabled hp
    rw [hcvt, hmul] at h
    obtain h | h | rfl := h
    · cases h
    · cases h
    · exact ⟨_, rfl⟩
  | some p =>
    rw [exec_cvtF64_pending hp, exec_mul64_pending hp] at h
    obtain h | h | rfl := h
    · cases h
      exact ⟨_, rfl⟩
    · cases h
      exact ⟨_, rfl⟩
    · exact ⟨_, rfl⟩

/-- No command writes an operand register. -/
theorem operands_of_command {s t : State}
    (h : exec .cvtF64 s = .next t ∨ exec .mul64 s = .next t ∨ s.completeIllegal = t) :
    t.opaLo = s.opaLo ∧ t.opaHi = s.opaHi ∧ t.opbLo = s.opbLo ∧ t.opbHi = s.opbHi := by
  obtain ⟨e, rfl⟩ := eq_complete_of_command h
  exact ⟨rfl, rfl, rfl, rfl⟩

/-- Settles O21: the number of two halves, the read-back, and the commands. -/
theorem operandsReadBack : Obligations.OperandsReadBack := by
  intro s
  refine ⟨toNat_append_eq_mul_add s.opaHi s.opaLo, toNat_append_eq_mul_add s.opbHi s.opbLo,
    fun hidle off v hoff => ?readBack, fun t => operands_of_command⟩
  case readBack =>
    simp only [List.mem_cons, List.not_mem_nil, or_false] at hoff
    rcases hoff with rfl | rfl | rfl | rfl
    exacts [exec_wr_rd_back .opaLo v hidle rfl hidle, exec_wr_rd_back .opaHi v hidle rfl hidle,
      exec_wr_rd_back .opbLo v hidle rfl hidle, exec_wr_rd_back .opbHi v hidle rfl hidle]

end Sys2Proof.Machine
end

section
/-! O11, O12 and O13 (42_host_access.md R167, R168). While a command is pending the host's oldest access is answered, or it is
held and the step is the completion, after which nothing is held. -/

namespace Sys2Proof.Machine

/-! ### A held access -/

/-- Whatever is left of the delay, a held access with no reset behind it lets the unit complete. -/
theorem step_of_held {s : State} {p : Pend} {x : HostInput} {rest : List HostInput} {i : Instr} (hp : s.pend = some p)
    (hs : s.inputs = x :: rest) (hx : inputFetch x = .instr i) (hholds : s.holds i = true)
    (hrest : ∀ later, rest ≠ .reset :: later) : step s = .next (s.complete (dispatch p)) := by
  have hreset : s.resetBehind = false := by
    rw [← Bool.not_eq_true, resetBehind_iff]
    rintro ⟨y, later, hs'⟩
    obtain ⟨-, htail⟩ := List.cons.inj (hs.symm.trans hs')
    exact hrest later htail
  exact step_of_unitFetch s p hp (fetch_of_held hp ((hostFetch_cons hs).trans hx) hholds hreset)

theorem holds_of_not_busy {s : State} (h : s.busy = false) (i : Instr) : s.holds i = false := by
  cases i with
  | cvtF64 => rfl
  | mul64 => rfl
  | rd off width => rw [holds_rd, holdsRead_of_not_busy h, Bool.and_false]
  | wr off width v => rw [holds_wr, h, Bool.and_false]

/-- The admitted accesses other than a RD of STATUS (42_host_access.md R167). -/
theorem held_of_busy {s : State} (hbusy : s.busy = true) {i : Instr}
    (h : (∃ off : Offset, off.toNat % 4 = 0 ∧ off.toNat ≤ 0x24 ∧ off.toNat ≠ 0x14 ∧ i = .rd off 4) ∨
      ∃ (off : Offset) (v : Word), off.toNat % 4 = 0 ∧ off.toNat ≤ 0x24 ∧ i = .wr off 4 v) :
    admittedAccess i = true ∧ s.holds i = true := by
  obtain ⟨off, haligned, hle, hoff, rfl⟩ | ⟨off, v, haligned, hle, rfl⟩ := h
  all_goals have hadm : admitted off 4 = true := (admitted_iff off 4).mpr ⟨rfl, haligned, hle⟩
  · exact ⟨hadm, by rw [holds_rd, hadm, holdsRead_of_busy hbusy hoff, Bool.and_self]⟩
  · exact ⟨hadm, by rw [holds_wr, hadm, hbusy, Bool.and_self]⟩

/-- Settles O11: the step of the held access is the completion, and in the completed state the access is answered. -/
theorem heldAccessWaitsForCompletion : Obligations.HeldAccessWaitsForCompletion := by
  refine ⟨fun s p x rest i hbusy hp hs hx hi hrest => ?held, exec_rd_status⟩
  case held =>
    obtain ⟨hadm, hholds⟩ := held_of_busy hbusy hi
    have hidle := s.complete_busy (dispatch p)
    obtain ⟨u, a, hexec, ⟨hanswers, hinputs⟩, ha⟩ := exec_answered hadm (holds_of_not_busy hidle i)
    have hs' : (s.complete (dispatch p)).inputs = x :: rest := hs
    refine ⟨exec_held hholds, _, u, step_of_held hp hs hx hholds hrest, s.complete_pend _, hidle, s.complete_result _,
      s.complete_err _, completionFrame_complete s _, step_of_access hs' hx (.inl (s.complete_pend _)), hexec, ?_,
      a, hanswers, ha⟩
    rw [hinputs, hs', List.tail_cons]

/-! ### A result read behind a command -/

theorem step_of_cmd_write {s : State} {v : Word} {rest : List HostInput} (hp : s.pend = none) (hb : s.busy = false)
    (hs : s.inputs = .bus 0x10#6 4 (some v) :: rest) : step s = .next ((s.respond .ack).accept v) :=
  (step_of_access hs rfl (.inl hp)).trans (exec_wr_cmd_accepts s v hb)

theorem toNat_offset_ne_status {r : Reg} (h : r ≠ .status) : r.offset.toNat ≠ 0x14 := by
  cases r with
  | status => exact absurd rfl h
  | _ => decide

/-- The CMD write is answered, the read is held until the completion, and is answered then: three steps. -/
theorem runSteps_cmd_rd {s : State} {v : Word} {r : Reg} {rest : List HostInput} (hp : s.pend = none) (hb : s.busy = false)
    (hrest : ∀ later, rest ≠ .reset :: later) (hr : r ≠ .status)
    (hs : s.inputs = .bus 0x10#6 4 (some v) :: .bus r.offset 4 none :: rest) :
    let done := ((s.respond .ack).accept v).complete (dispatch ⟨v, s.opa, s.opb⟩)
    runSteps 3 s = .next (done.respond (.data (done.readReg r))) := by
  intro done
  have hs₁ : ((s.respond .ack).accept v).inputs = .bus r.offset 4 none :: rest := by simp [hs]
  have hheld : ((s.respond .ack).accept v).holds (.rd r.offset 4) = true := by
    rw [holds_rd, admitted_offset, holdsRead_of_busy (State.accept_busy _ v) (toNat_offset_ne_status hr), Bool.and_self]
  have hcomplete : step ((s.respond .ack).accept v) = .next done := step_of_held rfl hs₁ rfl hheld hrest
  have hread : exec (.rd r.offset 4) done = .next (done.respond (.data (done.readReg r))) :=
    exec_rd_register r (holdsRead_of_not_busy (State.complete_busy _ _) r.offset)
  have hanswer : step done = .next (done.respond (.data (done.readReg r))) :=
    (step_of_access (s := done) hs₁ rfl (.inl rfl)).trans hread
  calc runSteps 3 s
      = runSteps 2 ((s.respond .ack).accept v) := runSteps_succ 2 _ _ (step_of_cmd_write hp hb hs)
    _ = runSteps 1 done := runSteps_succ 1 _ _ hcomplete
    _ = .next (done.respond (.data (done.readReg r))) := by rw [runSteps_succ 0 _ _ hanswer, runSteps_zero]

/-- Settles O12: the run of the two accesses, its read answering the delivered record's word. -/
theorem resultReadAnswersTheCommand : Obligations.ResultReadAnswersTheCommand := by
  intro s v rest hp hb hrest e off d hoff hs
  obtain ⟨r, hr, rfl, hd⟩ : ∃ r : Reg, r ≠ .status ∧ r.offset = off ∧
      ((((s.respond .ack).accept v).complete (dispatch ⟨v, s.opa, s.opb⟩)).readReg r) = d := by
    rcases hoff with ⟨rfl, rfl⟩ | ⟨rfl, rfl⟩ | ⟨rfl, rfl⟩ | ⟨rfl, rfl⟩
    exacts [⟨.resLo, Reg.noConfusion, rfl, rfl⟩, ⟨.resMid, Reg.noConfusion, rfl, rfl⟩,
      ⟨.resHi, Reg.noConfusion, rfl, rfl⟩, ⟨.resFlags, Reg.noConfusion, rfl, rfl⟩]
  refine ⟨_, runSteps_cmd_rd hp hb hrest hr hs, ?answers, by simp [hs], rfl, by simp, by simp⟩
  case answers => simp [hd]

/-! ### The pending command completes -/

/-- An access that is not held while a command is pending is answered, and nothing else changes. -/
theorem exec_not_held {s : State} (hbusy : s.busy = true) {x : HostInput} {i : Instr} (hx : inputFetch x = .instr i)
    (hholds : s.holds i = false) : ∃ a, exec i s = .next (s.respond a) := by
  obtain ⟨off, width, rfl⟩ | ⟨off, width, v, rfl⟩ := inputFetch_access x i hx
  · rcases execRd_cases s off width with ⟨-, hadm, hheld⟩ | ⟨hexec, -⟩ | ⟨hexec, -⟩
    · rw [holds_rd, hadm, hheld] at hholds
      cases hholds
    · exact ⟨_, hexec⟩
    · exact ⟨_, hexec⟩
  · rcases execWr_cases s off width v with ⟨-, hadm, -⟩ | ⟨r, -, -, -, hidle⟩ | ⟨hexec, -⟩
    · rw [holds_wr, hadm, hbusy] at hholds
      cases hholds
    · exact absurd (hbusy.symm.trans hidle) Bool.noConfusion
    · exact ⟨_, hexec⟩

/-- While a command is pending and the host issues accesses only, a step is the completion, or answers one access and counts
one off the delay. -/
theorem step_of_pending {s : State} {p : Pend} (hbusy : s.busy = true) (hp : s.pend = some p)
    (haccess : ∀ x ∈ s.inputs, ∃ i, inputFetch x = .instr i) :
    step s = .next (s.complete (dispatch p)) ∨ s.delay ≠ 0 ∧ s.inputs ≠ [] ∧ ∃ a, step s = .next (s.respond a) := by
  by_cases hdelay : s.delay = 0
  · exact .inl (step_of_unit_turn hp (.inl hdelay))
  cases hs : s.inputs with
  | nil => exact .inl (step_of_unit_turn hp (.inr hs))
  | cons x rest =>
    obtain ⟨i, hx⟩ := haccess x (by simp [hs])
    cases hholds : s.holds i with
    | true =>
      refine .inl (step_of_held hp hs hx hholds fun later hrest => ?_)
      obtain ⟨j, hj⟩ := haccess .reset (by simp [hs, hrest])
      cases hj
    | false =>
      obtain ⟨a, hexec⟩ := exec_not_held hbusy hx hholds
      exact .inr ⟨hdelay, List.cons_ne_nil x rest, a, (step_of_access hs hx (.inr ⟨hdelay, hholds⟩)).trans hexec⟩

/-- Settles O13, by induction on the delay: each answered access counts one off it. -/
theorem pendingCommandCompletes : Obligations.PendingCommandCompletes := by
  intro s p
  induction hd : s.delay generalizing s with
  | zero =>
    intro _ hp _
    exact ⟨0, s, le_rfl, rfl, hp, rfl, rfl, rfl, step_of_unit_turn hp (.inl hd)⟩
  | succ n ih =>
    intro hbusy hp haccess
    obtain hcomplete | ⟨-, hne, a, hstep⟩ := step_of_pending hbusy hp haccess
    · exact ⟨0, s, Nat.zero_le _, rfl, hp, rfl, rfl, rfl, hcomplete⟩
    · obtain ⟨k, t, hk, hrun, hpend, hresult, hinputs, hanswers, hcomplete⟩ :=
        ih (s.respond a) (by simp [hd]) hbusy hp fun x hx => haccess x (List.mem_of_mem_tail hx)
      refine ⟨k + 1, t, by omega, (runSteps_succ k s _ hstep).trans hrun, hpend, hresult, ?_, ?_, hcomplete⟩
      · rw [hinputs, State.respond_inputs, List.drop_tail]
      · rw [hanswers, State.respond_answers, List.length_append, List.length_singleton]
        omega

end Sys2Proof.Machine
end

section
/-! O49, O51 and O53 (60_exceptions.md R183, 70_reset_and_hazards.md R210, R212). A command whose CMD write is the host's only
input is accepted in one step and completed in the next. -/

namespace Sys2Proof.Machine

theorem step_of_lone_cmd_write {s : State} {v : Word} (hp : s.pend = none) (hb : s.busy = false)
    (hs : s.inputs = [.bus 0x10#6 4 (some v)]) :
    step s = .next ((s.respond .ack).accept v) ∧
      step ((s.respond .ack).accept v) =
        .next (((s.respond .ack).accept v).complete (dispatch ⟨v, s.opa, s.opb⟩)) :=
  ⟨step_of_cmd_write hp hb hs, step_of_unit_turn rfl (.inr (by simp [hs]))⟩

/-- Settles O49: the ending of an illegal value, written by the second of the two steps. -/
theorem illegalCommandCompletes : Obligations.IllegalCommandCompletes := by
  intro s v hcvt hmul hp hb hs
  obtain ⟨haccept, hcomplete⟩ := step_of_lone_cmd_write hp hb hs
  rw [dispatch_illegal (p := ⟨v, s.opa, s.opb⟩) hcvt hmul] at hcomplete
  exact ⟨_, _, haccept, State.accept_busy _ v, State.accept_lastop _ v, rfl, hcomplete, State.complete_err _ _, rfl,
    State.complete_done _ _, State.complete_busy _ _, by simp, rfl, rfl, rfl⟩

/-- Settles O51: every field of the reset state as it is defined. -/
theorem resetValues : Obligations.ResetValues := by
  unfold Obligations.ResetValues
  decide

/-- The ending of both commands for operands 0 (70_reset_and_hazards.md R212). -/
theorem dispatch_zero_operands {v : Word} (h : v = 1#32 ∨ v = 2#32) : dispatch ⟨v, 0#64, 0#64⟩ = ok .zero := by
  rcases h with rfl | rfl
  · rw [dispatch_cvtF64 rfl]
    exact cvt_underflow (by decide)
  · rw [dispatch_mul64 rfl]
    exact mul64_eq_pack (by decide)

theorem busy_reset : State.reset.busy = false := by decide

theorem readReg_reset (r : Reg) : State.reset.readReg r = 0#32 := by cases r <;> rfl

/-- Settles O53: the two steps of a lone command, and the registers that reset leaves. -/
theorem commandsRightAfterReset : Obligations.CommandsRightAfterReset := by
  refine ⟨fun v hv => ?command, fun r => ?read⟩
  case command =>
    obtain ⟨haccept, hcomplete⟩ :=
      step_of_lone_cmd_write (s := { State.reset with inputs := [.bus 0x10#6 4 (some v)] }) (v := v) rfl busy_reset rfl
    have hzero : dispatch ⟨v, State.reset.opa, State.reset.opb⟩ = ok .zero := dispatch_zero_operands hv
    refine ⟨_, (runSteps_succ 1 _ _ haccept).trans (runSteps_succ 0 _ _ hcomplete), ?_, ?_, State.complete_done _ _, by simp⟩
    · exact (State.complete_result _ _).trans (congrArg Ending.delivered hzero)
    · exact (State.complete_err _ _).trans (congrArg (Code.bits ∘ Ending.code) hzero)
  case read =>
    have hread := exec_rd_register (s := State.reset) r (holdsRead_of_not_busy busy_reset r.offset)
    rwa [readReg_reset] at hread

end Sys2Proof.Machine
end

section
/-! O6 (30_encoding.md R78). Each pseudo-instruction is a run of register writes from an idle block: two operand writes load an
operand and leave the block idle, and a CMD write behind them is accepted with what they loaded. -/

namespace Sys2Proof.Machine

/-! ### Register writes from an idle block -/

/-- The line `WR r, v` of a host program, from an idle block. -/
theorem step_of_wr_line {s : State} {r : Reg} {v : Word} {rest : List HostInput} (hp : s.pend = none) (hb : s.busy = false)
    (hs : s.inputs = .word (HostLine.wr r v).word :: rest) : step s = .next ((s.respond .ack).writeReg r v) :=
  (step_of_access hs (inputFetch_of_spells _ _ (.word _ _ (decodeTw_packTw_wr r.offset v))) (.inl hp)).trans
    (execWr_register s r v hb)

theorem State.writeReg_keeps_idle (s : State) {r : Reg} (v : Word) (hr : r ≠ .cmd) :
    (s.writeReg r v).pend = s.pend ∧ (s.writeReg r v).busy = s.busy := by
  cases r with
  | cmd => exact absurd rfl hr
  | _ => exact ⟨rfl, rfl⟩

/-- Two register writes, the first of them no command. -/
theorem runSteps_two_wr_lines {s : State} {r₁ r₂ : Reg} {v₁ v₂ : Word} {rest : List HostInput} (hp : s.pend = none)
    (hb : s.busy = false) (hr : r₁ ≠ .cmd)
    (hs : s.inputs = .word (HostLine.wr r₁ v₁).word :: .word (HostLine.wr r₂ v₂).word :: rest) :
    runSteps 2 s = .next ((((s.respond .ack).writeReg r₁ v₁).respond .ack).writeReg r₂ v₂) := by
  obtain ⟨hpend, hbusy⟩ := (s.respond .ack).writeReg_keeps_idle v₁ hr
  obtain ⟨-, hinputs⟩ := s.writeReg_answered r₁ v₁ .ack
  rw [hs, List.tail_cons] at hinputs
  rw [runSteps_succ 1 _ _ (step_of_wr_line hp hb hs),
    runSteps_succ 0 _ _ (step_of_wr_line (hpend.trans hp) (hbusy.trans hb) hinputs), runSteps_zero]

theorem runSteps_add {m : Nat} (n : Nat) {s t : State} (h : runSteps m s = .next t) : runSteps (m + n) s = runSteps n t := by
  induction m generalizing s with
  | zero =>
    cases h
    rw [Nat.zero_add]
  | succ m ih =>
    rw [Nat.add_right_comm]
    cases hstep : step s with
    | next u =>
      rw [runSteps_succ _ s u hstep] at h ⊢
      exact ih h
    | fault r => simp [runSteps, hstep] at h
    | refused r => simp [runSteps, hstep] at h

/-! ### Loading an operand -/

theorem append_extractLsb'_halves (a : DWord) : a.extractLsb' 32 32 ++ a.extractLsb' 0 32 = a := by
  apply BitVec.eq_of_toNat_eq
  rw [toNat_append_eq_mul_add, toNat_extractLsb'_hi, toNat_extractLsb'_lo]
  omega

/-- `LDA a` leaves the block idle with operand A loaded. -/
theorem runSteps_lda {s : State} {a : DWord} {rest : List HostInput} (hp : s.pend = none) (hb : s.busy = false)
    (hs : s.inputs = hostProgram (expandLda a) ++ rest) :
    ∃ t, runSteps 2 s = .next t ∧ t.opa = a ∧ t.opb = s.opb ∧ t.pend = none ∧ t.busy = false ∧ t.inputs = rest ∧
      t.answers = s.answers ++ [.ack, .ack] :=
  ⟨_, runSteps_two_wr_lines (r₁ := .opaLo) (r₂ := .opaHi) hp hb Reg.noConfusion hs, append_extractLsb'_halves a, rfl,
    hp, hb, by simp [hs, hostProgram, expandLda], by simp⟩

/-- `LDB b` leaves the block idle with operand B loaded. -/
theorem runSteps_ldb {s : State} {b : DWord} {rest : List HostInput} (hp : s.pend = none) (hb : s.busy = false)
    (hs : s.inputs = hostProgram (expandLdb b) ++ rest) :
    ∃ t, runSteps 2 s = .next t ∧ t.opb = b ∧ t.opa = s.opa ∧ t.pend = none ∧ t.busy = false ∧ t.inputs = rest ∧
      t.answers = s.answers ++ [.ack, .ack] :=
  ⟨_, runSteps_two_wr_lines (r₁ := .opbLo) (r₂ := .opbHi) hp hb Reg.noConfusion hs, append_extractLsb'_halves b, rfl,
    hp, hb, by simp [hs, hostProgram, expandLdb], by simp⟩

/-- The CMD write leaves the command pending with the operands the registers hold. -/
theorem runSteps_cmd {s : State} {v : Word} {rest : List HostInput} (hp : s.pend = none) (hb : s.busy = false)
    (hs : s.inputs = hostProgram [.wr .cmd v] ++ rest) :
    ∃ t, runSteps 1 s = .next t ∧ t.pend = some ⟨v, s.opa, s.opb⟩ ∧ t.inputs = rest ∧ t.answers = s.answers ++ [.ack] :=
  ⟨_, runSteps_succ 0 _ _ (step_of_wr_line hp hb hs), rfl, by simp [hs, hostProgram], by simp⟩

theorem hostProgram_append (l₁ l₂ : List HostLine) (rest : List HostInput) :
    hostProgram (l₁ ++ l₂) ++ rest = hostProgram l₁ ++ (hostProgram l₂ ++ rest) := by
  rw [hostProgram, List.map_append, List.append_assoc, hostProgram, hostProgram]

/-- Settles O6: the loads, and the command behind them. -/
theorem pseudoInstructionsLoadAndIssue : Obligations.PseudoInstructionsLoadAndIssue := by
  intro s a b rest hp hb
  refine ⟨fun hs => ?lda, fun hs => ?ldb, fun hs => ?cvt, fun hs => ?mul⟩
  case lda =>
    obtain ⟨t, hrun, ha, hkept, hpend, -, hinputs, hanswers⟩ := runSteps_lda hp hb hs
    exact ⟨t, hrun, ha, hkept, hpend, hinputs, hanswers⟩
  case ldb =>
    obtain ⟨t, hrun, hb', hkept, hpend, -, hinputs, hanswers⟩ := runSteps_ldb hp hb hs
    exact ⟨t, hrun, hb', hkept, hpend, hinputs, hanswers⟩
  case cvt =>
    rw [Pseudo.expand, hostProgram_append] at hs
    obtain ⟨t, hload, ha, hkept, hpend, hbusy, hinputs, hanswers⟩ := runSteps_lda hp hb hs
    obtain ⟨u, hcmd, hpend', hinputs', hanswers'⟩ := runSteps_cmd hpend hbusy hinputs
    refine ⟨u, (runSteps_add 1 hload).trans hcmd, ?_, hinputs', ?_⟩
    · rw [hpend', ha, hkept]
    · rw [hanswers', hanswers, List.append_assoc]
      rfl
  case mul =>
    rw [Pseudo.expand, hostProgram_append, hostProgram_append] at hs
    obtain ⟨t, hloadA, ha, -, hpend, hbusy, hinputs, hanswers⟩ := runSteps_lda hp hb hs
    obtain ⟨u, hloadB, hb', hkept, hpend', hbusy', hinputs', hanswers'⟩ := runSteps_ldb hpend hbusy hinputs
    obtain ⟨w, hcmd, hpend'', hinputs'', hanswers''⟩ := runSteps_cmd hpend' hbusy' hinputs'
    refine ⟨w, (runSteps_add 3 hloadA).trans ((runSteps_add 1 hloadB).trans hcmd), ?_, hinputs'', ?_⟩
    · rw [hpend'', hkept, ha, hb']
    · rw [hanswers'', hanswers', hanswers, List.append_assoc, List.append_assoc]
      rfl

end Sys2Proof.Machine
end

section
/-! O25 (20_memory.md R53, R54). An operand's image is put together from its two registers, as the record's is. -/

namespace Sys2Proof.Machine

/-- No register stands above RES_FLAGS (20_memory.md R51). -/
theorem State.windowByte_reserved (s : State) {n : Nat} (h : 0x28 ≤ n) : s.windowByte n = none := by
  rw [State.windowByte, Config.windowSize]
  split
  case isTrue hlt =>
    have hword : (BitVec.ofNat 6 (n / 4 * 4)).toNat = n / 4 * 4 := by
      rw [BitVec.toNat_ofNat]
      omega
    have hnone : regAt (BitVec.ofNat 6 (n / 4 * 4)) = none := by
      rw [← Option.not_isSome_iff_eq_none, regAt_isSome_iff, hword]
      omega
    rw [hnone, Option.map_none]
  case isFalse => rfl

/-- Settles O25: the images of OPA and OPB, and the reserved offsets. -/
theorem operandByteImage : Obligations.OperandByteImage := by
  intro s i
  have hopa : s.HoldsImage 0x00 8 s.opa := .append (s.holdsImage_register .opaLo) (s.holdsImage_register .opaHi)
  have hopb : s.HoldsImage 0x08 8 s.opb := .append (s.holdsImage_register .opbLo) (s.holdsImage_register .opbHi)
  refine ⟨fun hi => ⟨?opa, hopb i hi⟩, s.windowByte_reserved⟩
  case opa => simpa using hopa i hi

end Sys2Proof.Machine
end

section
/-! O42 (40_convert.md R112, R114). What factoring has taken off is the difference of the scales, at every stage; and since each k
is half of the one before, a stage leaves less to take off than its k twice over, so that trying every k once is enough. -/

namespace Sys2Proof.Machine

/-! ### One k -/

theorem factorStep_of_dvd {k : Nat} (hk : k < 10) {f : Factoring} (h : (k : ℤ) ≤ f.lmax ∧ 10 ^ k ∣ f.mant) :
    factorStep k f = ⟨f.mant / 10 ^ k, f.power - k, f.lmax - k⟩ := by
  rw [factorStep, toNat_powU32 hk, if_pos ⟨h.1, Nat.mod_eq_zero_of_dvd h.2⟩]

theorem factorStep_of_not_dvd {k : Nat} (hk : k < 10) {f : Factoring} (h : ¬((k : ℤ) ≤ f.lmax ∧ 10 ^ k ∣ f.mant)) :
    factorStep k f = f := by
  rw [factorStep, toNat_powU32 hk, if_neg fun hc => h ⟨hc.1, Nat.dvd_of_mod_eq_zero hc.2⟩]

/-! ### What has come off -/

/-- A stage of the factoring of mant and power: as many digits are off as the scale has lost, and the headroom has lost as
many. -/
structure Factoring.Reached (mant : Nat) (power : ℤ) (f : Factoring) : Prop where
  power_le : f.power ≤ power
  value : f.mant * 10 ^ (power - f.power).toNat = mant
  headroom : f.lmax = min power 14 - (power - f.power)
  headroom_nonneg : 0 ≤ f.lmax

theorem reached_start (mant : Nat) {power : ℤ} (h : 0 ≤ power) :
    Factoring.Reached mant power ⟨mant, power, min power 14⟩ where
  power_le := le_rfl
  value := by simp
  headroom := by simp
  headroom_nonneg := le_min h (by norm_num)

theorem Factoring.Reached.factorStep {mant k : Nat} {power : ℤ} {f : Factoring} (h : f.Reached mant power) (hk : k < 10) :
    (factorStep k f).Reached mant power := by
  by_cases hdvd : (k : ℤ) ≤ f.lmax ∧ 10 ^ k ∣ f.mant
  · obtain ⟨hle, hvalue, hhead, -⟩ := h
    rw [factorStep_of_dvd hk hdvd]
    refine ⟨by dsimp only; omega, ?_, by dsimp only; omega, by dsimp only; omega⟩
    have hoff : (power - (f.power - k)).toNat = k + (power - f.power).toNat := by omega
    rw [hoff, pow_add, ← Nat.mul_assoc, Nat.div_mul_cancel hdvd.2, hvalue]
  · rwa [factorStep_of_not_dvd hk hdvd]

theorem reached_factor (mant : Nat) {power : ℤ} (h : 0 ≤ power) : (factor mant power).Reached mant power := by
  have h8 := (reached_start mant h).factorStep (k := 8) (by norm_num)
  have h4 := h8.factorStep (k := 4) (by norm_num)
  have h2 := h4.factorStep (k := 2) (by norm_num)
  exact h2.factorStep (k := 1) (by norm_num)

/-! ### What is left -/

/-- 10^k cannot come off. -/
def Factoring.Exhausted (k : Nat) (f : Factoring) : Prop := ¬((k : ℤ) ≤ f.lmax ∧ 10 ^ k ∣ f.mant)

/-- Where 10^(2k) cannot come off, 10^k comes off at most once. -/
theorem exhausted_factorStep {k : Nat} (hk : k < 10) {f : Factoring} (h : f.Exhausted (k + k)) :
    (factorStep k f).Exhausted k := by
  by_cases hdvd : (k : ℤ) ≤ f.lmax ∧ 10 ^ k ∣ f.mant
  · rw [factorStep_of_dvd hk hdvd]
    rintro ⟨hroom, hagain⟩
    dsimp only at hroom hagain
    refine h ⟨by push_cast; omega, ?_⟩
    rw [pow_add]
    exact Nat.mul_dvd_of_dvd_div hdvd.2 hagain
  · rwa [factorStep_of_not_dvd hk hdvd]

/-- The headroom is below 16 at the start. -/
theorem exhausted_factor (mant : Nat) (power : ℤ) : (factor mant power).Exhausted 1 := by
  have h16 : Factoring.Exhausted 16 ⟨mant, power, min power 14⟩ := fun ⟨hroom, _⟩ => by dsimp only at hroom; omega
  have h8 := exhausted_factorStep (k := 8) (by norm_num) h16
  have h4 := exhausted_factorStep (k := 4) (by norm_num) h8
  have h2 := exhausted_factorStep (k := 2) (by norm_num) h4
  exact exhausted_factorStep (k := 1) (by norm_num) h2

/-- Settles O42: what has come off and what is left, the rule of one k, and the record of what factoring leaves. -/
theorem factoringKeepsValue : Obligations.FactoringKeepsValue := by
  refine ⟨fun mant power hpower => ?factor, fun k f hk => ?step,
    fun sign x => ⟨assemble_of_nonneg, assemble_zero⟩⟩
  case factor =>
    obtain ⟨hle, hvalue, hhead, hnonneg⟩ := reached_factor mant hpower
    refine ⟨by omega, hle, by omega, hvalue, fun hleft hzero => ?_, rfl⟩
    refine exhausted_factor mant power ⟨by push_cast; omega, ?_⟩
    rw [pow_one]
    exact Nat.dvd_of_mod_eq_zero hzero
  case step =>
    have hlt : k < 10 := by
      simp only [List.mem_cons, List.not_mem_nil, or_false] at hk
      omega
    exact ⟨factorStep_of_dvd hlt, factorStep_of_not_dvd hlt⟩

end Sys2Proof.Machine
end

section
/-! O45 and O46 (00_scope.md R10, R11). Every binary64 value is a multiple of the spacing around the number, or lies below all the
multiples that matter; among the multiples `roundNearestEven` takes the nearest one. -/

namespace Sys2Proof.Machine

/-! ### Rounding to a multiple -/

/-- No multiple of den is nearer than the rounded one, and one that is as near is the same or a tie. -/
theorem roundNearestEven_closest (num : Nat) {den : Nat} (hden : 0 < den) (z : Nat) :
    |(roundNearestEven num den : ℤ) * den - num| ≤ |(z : ℤ) * den - num| ∧
      (|(roundNearestEven num den : ℤ) * den - num| = |(z : ℤ) * den - num| →
        z = roundNearestEven num den ∨ roundNearestEven num den % 2 = 0) := by
  obtain ⟨hnear, htie⟩ := roundNearestEven_nearest num hden
  generalize roundNearestEven num den = q at *
  rcases eq_or_ne z q with rfl | hne
  · exact ⟨le_rfl, fun _ => .inl rfl⟩
  · have hapart : (den : ℤ) ≤ |(z : ℤ) * den - q * den| := by
      have hone : 1 ≤ |(z : ℤ) - q| := Int.one_le_abs (sub_ne_zero.mpr (by exact_mod_cast hne))
      rw [← sub_mul, abs_mul, Nat.abs_cast]
      exact le_mul_of_one_le_left (Int.natCast_nonneg den) hone
    have htriangle : |(z : ℤ) * den - q * den| ≤ |(z : ℤ) * den - num| + |(q : ℤ) * den - num| := by
      rw [abs_sub_comm ((q : ℤ) * den) num]
      exact abs_sub_le _ _ _
    exact ⟨by omega, fun heq => .inr (htie (by omega))⟩

/-! ### The significand of a rounded value -/

theorem significand_even {q : Nat} (j : Nat) (heven : q % 2 = 0) (hlt : q < 2 ^ 53) : significand (q * 2 ^ j) % 2 = 0 := by
  have hlog : (q * 2 ^ j).log2 < 53 + j := by
    rw [Nat.log2_eq_log_two]
    apply Nat.log_lt_of_lt_pow' (by omega)
    rw [pow_add]
    exact Nat.mul_lt_mul_of_pos_right hlt (by positivity)
  obtain ⟨i, hi⟩ := Nat.exists_eq_add_of_le (show (q * 2 ^ j).log2 - 52 ≤ j by omega)
  have hsignificand : significand (q * 2 ^ j) = q * 2 ^ i := by
    rw [significand]
    generalize (q * 2 ^ j).log2 - 52 = t at *
    rw [hi, pow_add, Nat.mul_left_comm, Nat.mul_div_cancel_left _ (by positivity)]
  rw [hsignificand, Nat.mul_mod, heven]
  simp

/-- A rounded value is at most 2^53 spacings, and 2^53 spacings are 2^52 of the next ones. -/
theorem significand_rne_even {num den : Nat} (hden : 0 < den)
    (heven : roundNearestEven num (den * spacing num den) % 2 = 0) : significand (rne num den) % 2 = 0 := by
  have hpos := Nat.mul_pos hden (spacing_pos num den)
  have hle : roundNearestEven num (den * spacing num den) ≤ 2 ^ 53 :=
    roundNearestEven_le _ _ _ hpos (num_lt_spacing num den hden).le
  rw [rne]
  generalize roundNearestEven num (den * spacing num den) = q at *
  rw [spacing]
  rcases Nat.lt_or_eq_of_le hle with hlt | rfl
  · exact significand_even _ heven hlt
  · rw [pow_succ 2 52, Nat.mul_assoc, ← pow_succ']
    exact significand_even _ (by norm_num) (by norm_num)

/-! ### The nearest binary64 value -/

/-- `rne` is roundTiesToEven (00_scope.md R11). -/
theorem nearestTiesToEven_rne (num : Nat) {den : Nat} (hden : 0 < den) : NearestTiesToEven (rne num den) num den := by
  have hpos := Nat.mul_pos hden (spacing_pos num den)
  have hclosest := roundNearestEven_closest num hpos
  have hmul (z : Nat) : ((z * spacing num den : Nat) : ℤ) * den = z * (den * spacing num den : Nat) := by
    push_cast
    ring
  refine ⟨isF64_rne num hden, fun y hy => ?_⟩
  have hdist : |(rne num den : ℤ) * den - num| =
      |(roundNearestEven num (den * spacing num den) : ℤ) * (den * spacing num den : Nat) - num| := by rw [rne, hmul]
  rw [hdist]
  rcases hy.dvd_or_lt_spacing num den with ⟨z, rfl⟩ | ⟨hlt, hnum⟩
  · obtain ⟨hle, htie⟩ := hclosest z
    rw [Nat.mul_comm (spacing num den) z, hmul]
    refine ⟨hle, fun heq => (htie heq).imp (fun hz => ?_) (significand_rne_even hden)⟩
    rw [hz, rne]
  · have hbelow : |((2 ^ 52 : Nat) : ℤ) * (den * spacing num den : Nat) - num| < |(y : ℤ) * den - num| := by
      have hy' : y * den < 2 ^ 52 * (den * spacing num den) :=
        (Nat.mul_lt_mul_of_pos_right hlt hden).trans_eq (by ring)
      have hcast : (y : ℤ) * den < ((2 ^ 52 : Nat) : ℤ) * (den * spacing num den : Nat) := by exact_mod_cast hy'
      have hcast' : ((2 ^ 52 : Nat) : ℤ) * (den * spacing num den : Nat) ≤ num := by exact_mod_cast hnum
      rw [abs_of_nonpos (by linarith), abs_of_nonpos (by linarith)]
      linarith
    have hfar := (hclosest (2 ^ 52)).1.trans_lt hbelow
    exact ⟨hfar.le, fun heq => absurd heq hfar.ne⟩

/-- Settles O45: each operation is `rne` of its exact result. -/
theorem roundingIsNearestTiesToEven : Obligations.RoundingIsNearestTiesToEven :=
  ⟨fun num _ => nearestTiesToEven_rne num, fun x y => nearestTiesToEven_rne (x * y) unit_pos,
    fun x _ => nearestTiesToEven_rne (x * unit), fun x y _ => nearestTiesToEven_rne (x - y) one_pos⟩

/-! ### Rounding keeps order -/

/-- A point at least as near to the upper of two values lies above their middle. -/
theorem add_le_two_mul_of_nearer {x y a : ℤ} (hxy : x < y) (h : |y - a| ≤ |x - a|) : x + y ≤ 2 * a := by
  rcases abs_cases (x - a) with hx | hx <;> rcases abs_cases (y - a) with hy | hy <;> omega

/-- A point at least as near to the lower of two values lies below their middle. -/
theorem two_mul_le_add_of_nearer {x y a : ℤ} (hxy : x < y) (h : |x - a| ≤ |y - a|) : 2 * a ≤ x + y := by
  rcases abs_cases (x - a) with hx | hx <;> rcases abs_cases (y - a) with hy | hy <;> omega

theorem rne_le_rne_same {a b den : Nat} (hden : 0 < den) (h : a ≤ b) : rne a den ≤ rne b den := by
  rcases Nat.lt_or_eq_of_le h with hlt | rfl
  · by_contra hgt
    obtain ⟨hF64a, hneara⟩ := nearestTiesToEven_rne a hden
    obtain ⟨hF64b, hnearb⟩ := nearestTiesToEven_rne b hden
    have hden' : (0 : ℤ) < den := by exact_mod_cast hden
    have hcast : (rne b den : ℤ) < rne a den := by exact_mod_cast not_le.mp hgt
    have horder := mul_lt_mul_of_pos_right hcast hden'
    have hlow := add_le_two_mul_of_nearer horder (hneara _ hF64b).1
    have hhigh := two_mul_le_add_of_nearer horder (hnearb _ hF64a).1
    omega
  · exact le_rfl

/-- Rounding keeps the order of quotients: over a common denominator they are ordered as their numerators. -/
theorem rne_mono {num den num' den' : Nat} (hden : 0 < den) (hden' : 0 < den') (h : num * den' ≤ num' * den) :
    rne num den ≤ rne num' den' :=
  calc rne num den = rne (num * den') (den * den') := (rne_mul_right num den hden').symm
    _ ≤ rne (num' * den) (den * den') := rne_le_rne_same (Nat.mul_pos hden hden') h
    _ = rne (num' * den) (den' * den) := by rw [Nat.mul_comm den den']
    _ = rne num' den' := rne_mul_right num' den' hden

/-- Settles O46: exactness, order, and the integers with 53 bits. -/
theorem roundingExactAndMonotone : Obligations.RoundingExactAndMonotone :=
  ⟨fun _ => rne_of_isF64, fun _ _ _ _ => rne_mono, fun _ => isF64_toF64⟩

end Sys2Proof.Machine
end

section
/-! O39 (40_convert.md R108 to R110). The scaled magnitude is one scaling by the estimate's power of ten, and one renormalisation
of what that gives. -/

namespace Sys2Proof.Machine

/-- The scaling by the estimate, before second-chance normalisation (40_convert.md R108, R109). -/
def scaleByEstimate (d : Nat) (power0 : ℤ) : Scaled := if 0 ≤ power0 then scaleUp d power0 else scaleDown d power0

theorem scaleMagnitude_eq_renorm (d : Nat) (exp : ℤ) :
    scaleMagnitude d exp = renorm (scaleByEstimate d (scaleEstimate exp)) := rfl

theorem scaleByEstimate_of_nonneg {d : Nat} {power0 : ℤ} (h : 0 ≤ power0) :
    scaleByEstimate d power0 = ⟨fmul d (powD (min power0 28).toNat), min power0 28⟩ := if_pos h

/-- The division by 10 is skipped below 10^15 (90_conflicts.md C5). -/
theorem scaleByEstimate_skipped {d : Nat} (h : d < toF64 (10 ^ 15)) : scaleByEstimate d (-1) = ⟨d, 0⟩ := by
  rw [scaleByEstimate, if_neg (by norm_num), scaleDown, if_neg (by simpa using h)]

theorem scaleByEstimate_divided {d : Nat} {power0 : ℤ} (h : power0 < -1 ∨ power0 = -1 ∧ toF64 (10 ^ 15) ≤ d) :
    scaleByEstimate d power0 = ⟨fdiv d (powD (-power0).toNat), power0⟩ := by
  rw [scaleByEstimate, if_neg (by omega), scaleDown, if_pos (by omega)]

theorem renorm_of_small {x : Scaled} (h : x.d < toF64 (10 ^ 14) ∧ x.power < 28) :
    renorm x = ⟨fmul x.d (toF64 10), x.power + 1⟩ := if_pos h

theorem renorm_of_not_small {x : Scaled} (h : ¬(x.d < toF64 (10 ^ 14) ∧ x.power < 28)) : renorm x = x := if_neg h

/-- Settles O39: the scaling by the estimate, in its three cases, and then the renormalisation of its result. -/
theorem scalingFollowsEstimate : Obligations.ScalingFollowsEstimate := by
  intro a hlo hhi d power0 x
  have hestimate : -14 ≤ power0 := by
    simp only [power0, scaleEstimate, cvtExp]
    omega
  have hx : x = renorm (scaleByEstimate d power0) := scaleMagnitude_eq_renorm d (cvtExp a)
  refine ⟨?assembled, (scaleByEstimate d power0).d, (scaleByEstimate d power0).power, fun hup => ?up,
    fun hone hsmall => ?skipped, fun hdown => ?divided, fun hsmall => ?renormalised, fun hkept => ?kept⟩
  case assembled => rw [cvt_converted hlo (by omega), ← magnitude_abs64]
  case up =>
    rw [scaleByEstimate_of_nonneg hup]
    exact ⟨rfl, rfl⟩
  case skipped =>
    rw [hone, scaleByEstimate_skipped hsmall]
    exact ⟨rfl, rfl⟩
  case divided =>
    rw [scaleByEstimate_divided hdown]
    exact ⟨rfl, rfl, by omega, by omega⟩
  case renormalised =>
    rw [hx, renorm_of_small hsmall]
    exact ⟨rfl, rfl⟩
  case kept =>
    rw [hx, renorm_of_not_small hkept]
    exact ⟨rfl, rfl⟩

end Sys2Proof.Machine
end

section
/-! O33 (40_convert.md R116). Scaling by the estimate gives a value below 10^15, and one of at least 10^13 where the scale is not
clamped, checked for the octave of each exponent field; so one multiplication by 10 is enough to give it 15 digits. -/

namespace Sys2Proof.Machine

/-- The largest binary64 value below n spacings. -/
theorem IsF64.le_pred {x n j : Nat} (h : IsF64 x) (hn : 2 ^ 52 < n) (hlt : x < n * 2 ^ j) : x ≤ (n - 1) * 2 ^ j := by
  obtain ⟨q, rfl⟩ | ⟨hlow, -⟩ := h.dvd_or_lt j
  · rw [Nat.mul_comm] at hlt ⊢
    have hq : q < n := Nat.lt_of_mul_lt_mul_right hlt
    exact Nat.mul_le_mul_right _ (by omega)
  · exact hlow.le.trans (Nat.mul_le_mul_right _ (by omega))

theorem toF64_ten_pow_14 : toF64 (10 ^ 14) = 64 * 10 ^ 14 * 2 ^ 1068 := by
  rw [toF64, unit, show 1074 = 6 + 1068 from rfl, pow_add, Nat.mul_left_comm, ← Nat.mul_assoc,
    show (2 : Nat) ^ 6 = 64 from rfl]

theorem toF64_ten_pow_15 : toF64 (10 ^ 15) = 8 * 10 ^ 15 * 2 ^ 1071 := by
  rw [toF64, unit, show 1074 = 3 + 1071 from rfl, pow_add, Nat.mul_left_comm, ← Nat.mul_assoc,
    show (2 : Nat) ^ 3 = 8 from rfl]

theorem isF64_two_pow_52 : IsF64 (2 ^ 52) := ⟨2 ^ 52, 0, by norm_num, by rw [pow_zero, Nat.mul_one]⟩

/-- The largest binary64 value below 10^15. -/
def belowTenPow15 : Nat := (8 * 10 ^ 15 - 1) * 2 ^ 1071

theorem isF64_belowTenPow15 : IsF64 belowTenPow15 := ⟨_, _, by norm_num, rfl⟩

theorem belowTenPow15_lt : belowTenPow15 < toF64 (10 ^ 15) := by
  rw [toF64_ten_pow_15, belowTenPow15]
  exact Nat.mul_lt_mul_of_pos_right (by norm_num) (by positivity)

theorem le_rne_one {x n : Nat} (hx : IsF64 x) (h : x ≤ n) : x ≤ rne n 1 :=
  le_rne hx one_pos ((Nat.mul_one x).trans_le h)

theorem rne_one_le {x n : Nat} (hx : IsF64 x) (h : n ≤ x) : rne n 1 ≤ x :=
  rne_le hx one_pos (h.trans_eq (Nat.mul_one x).symm)

/-! ### The windows of a scaled value -/

/-- A normal binary64 value below 10^15, and at least low where the scale is not clamped. -/
structure Scaled.InWindow (low : Nat) (x : Scaled) : Prop where
  isF64 : IsF64 x.d
  lt : x.d < toF64 (10 ^ 15)
  ge : x.power < 28 → toF64 low ≤ x.d
  normal : 2 ^ 52 ≤ x.d

/-- Multiplying by 10 once gives the 15th digit, and does not reach 10^15. -/
theorem Scaled.InWindow.renorm {x : Scaled} (h : x.InWindow (10 ^ 13)) : (renorm x).InWindow (10 ^ 14) := by
  obtain ⟨hF64, hlt, hge, hnormal⟩ := h
  by_cases hsmall : x.d < toF64 (10 ^ 14) ∧ x.power < 28
  · obtain ⟨hd, hpower⟩ := hsmall
    have hlow : toF64 (10 ^ 14) ≤ x.d * 10 := by
      have hten : toF64 (10 ^ 14) = toF64 (10 ^ 13) * 10 := by rw [toF64, toF64, Nat.mul_right_comm, ← pow_succ]
      rw [hten]
      exact Nat.mul_le_mul_right 10 (hge hpower)
    have hhigh : x.d * 10 ≤ belowTenPow15 := by
      have hpred : x.d ≤ (64 * 10 ^ 14 - 1) * 2 ^ 1068 := hF64.le_pred (by norm_num) (toF64_ten_pow_14 ▸ hd)
      have hunit : (2 : Nat) ^ 1071 = 8 * 2 ^ 1068 := by
        rw [show 1071 = 3 + 1068 from rfl, pow_add, show (2 : Nat) ^ 3 = 8 from rfl]
      rw [belowTenPow15, hunit]
      generalize (2 : Nat) ^ 1068 = u at *
      omega
    have hresult : toF64 (10 ^ 14) ≤ rne (x.d * 10) 1 :=
      le_rne_one (isF64_toF64 (by norm_num)) hlow
    rw [renorm_of_small ⟨hd, hpower⟩, fmul_toF64]
    exact ⟨isF64_rne _ one_pos, (rne_one_le isF64_belowTenPow15 hhigh).trans_lt belowTenPow15_lt, fun _ => hresult,
      le_rne_one isF64_two_pow_52 (by omega)⟩
  · rw [renorm_of_not_small hsmall]
    exact ⟨hF64, hlt, fun hpower => not_lt.mp fun hd => hsmall ⟨hd, hpower⟩, hnormal⟩

/-! ### Scaling by the estimate -/

/-- For each exponent field that is scaled up, the ends of its octave against the entry of T_D. -/
theorem octave_mul_entry_window : ∀ E : Nat, E < 1072 → 928 ≤ E →
    let power := min (scaleEstimate ((E : ℤ) - 1022)) 28
    let entry := rne (10 ^ power.toNat) 1
    2 ^ (E + 52) * entry ≤ belowTenPow15 ∧ (power < 28 → toF64 (10 ^ 13) ≤ 2 ^ (E + 51) * entry) ∧
      2 ^ 52 ≤ 2 ^ (E + 51) * entry := by
  decide +kernel

theorem scaleUp_inWindow {a : DWord} (hlo : 928 ≤ expField a) (hhi : expField a < 1072) :
    (scaleUp (magnitude a) (scaleEstimate (cvtExp a))).InWindow (10 ^ 13) := by
  obtain ⟨hupper, hlower, hnormal⟩ := octave_mul_entry_window (expField a) hhi hlo
  have hbelow := Nat.mul_le_mul_right (rne (10 ^ (min (scaleEstimate (cvtExp a)) 28).toNat) 1)
    (magnitude_lt_two_pow (show 1 ≤ expField a by omega)).le
  have habove := Nat.mul_le_mul_right (rne (10 ^ (min (scaleEstimate (cvtExp a)) 28).toNat) 1)
    (two_pow_le_magnitude (show 1 ≤ expField a by omega))
  rw [scaleUp_eq]
  exact ⟨isF64_rne _ one_pos, (rne_one_le isF64_belowTenPow15 (hbelow.trans hupper)).trans_lt belowTenPow15_lt,
    fun hpower => le_rne_one (isF64_toF64 (by norm_num)) ((hlower hpower).trans habove),
    le_rne_one isF64_two_pow_52 (hnormal.trans habove)⟩

/-- For each exponent field that is scaled down, the ends of its octave against the divisor. -/
theorem octave_window : ∀ E : Nat, E < 1119 → 1072 ≤ E →
    let divisor := 10 ^ (-scaleEstimate ((E : ℤ) - 1022)).toNat
    2 ^ (E + 52) ≤ belowTenPow15 * divisor ∧ toF64 (10 ^ 13) * divisor ≤ 2 ^ (E + 51) := by
  decide +kernel

theorem toF64_ten_pow_13_le : toF64 (10 ^ 13) ≤ 2 ^ 1123 ∧ 2 ^ 52 ≤ toF64 (10 ^ 13) := by decide +kernel

theorem scaleDown_inWindow {a : DWord} (hlo : 1072 ≤ expField a) (hhi : expField a < 1119) :
    (scaleDown (magnitude a) (scaleEstimate (cvtExp a))).InWindow (10 ^ 13) := by
  obtain ⟨hupper, hlower⟩ := octave_window (expField a) hhi hlo
  obtain ⟨hkept, hnormal⟩ := toF64_ten_pow_13_le
  have hge : -14 ≤ scaleEstimate (cvtExp a) := by rw [scaleEstimate, cvtExp]; omega
  have hbelow := (magnitude_lt_two_pow (show 1 ≤ expField a by omega)).le
  have habove := two_pow_le_magnitude (show 1 ≤ expField a by omega)
  obtain heq | ⟨heq, hlt⟩ := scaleDown_cases (magnitude a) hge <;> rw [heq]
  case inl =>
    have hpos : 0 < 10 ^ (-scaleEstimate (cvtExp a)).toNat := by positivity
    have hlow : toF64 (10 ^ 13) ≤ rne (magnitude a) (10 ^ (-scaleEstimate (cvtExp a)).toNat) :=
      le_rne (isF64_toF64 (by norm_num)) hpos (hlower.trans habove)
    exact ⟨isF64_rne _ hpos, (rne_le isF64_belowTenPow15 hpos (hbelow.trans hupper)).trans_lt belowTenPow15_lt,
      fun _ => hlow, hnormal.trans hlow⟩
  case inr =>
    have hlow : toF64 (10 ^ 13) ≤ magnitude a :=
      hkept.trans ((pow_right_mono₀ one_le_two (show 1123 ≤ expField a + 51 by omega)).trans habove)
    exact ⟨isF64_magnitude a, hlt, fun _ => hlow, hnormal.trans hlow⟩

theorem scaleMagnitude_inWindow {a : DWord} (hlo : 928 ≤ expField a) (hhi : expField a < 1119) :
    (scaleMagnitude (magnitude a) (cvtExp a)).InWindow (10 ^ 14) := by
  rcases Nat.lt_or_ge (expField a) 1072 with hup | hdown
  · exact scaleMagnitude_of_lt hup ▸ (scaleUp_inWindow hlo hup).renorm
  · exact scaleMagnitude_of_ge hdown ▸ (scaleDown_inWindow hdown hhi).renorm

/-! ### The final mantissa -/

/-- Widening a scaled value never overflows. -/
theorem Scaled.InRange.widen_eq {x : Scaled} (h : x.InRange) (hneg : x.power < 0) :
    ∃ m, widen (roundMantissa x.d) x.power = some m ∧ m.toNat = roundMantissa x.d * 10 ^ (-x.power).toNat := by
  obtain ⟨p, hp⟩ := Int.exists_eq_neg_ofNat hneg.le
  have hge := h.power_ge
  have hmant := h.roundMantissa_le
  have hfits := h.product_lt hp
  refine ⟨_, by rw [hp, Machine.widen_eq (by omega) (by omega), if_pos hfits], ?_⟩
  rw [BitVec.toNat_ofNat, Nat.mod_eq_of_lt hfits, hp, neg_neg, Int.toNat_natCast]

/-- The largest product of a mantissa and its power of ten is that of the lowest scale. -/
theorem Scaled.InRange.product_le {x : Scaled} (h : x.InRange) {p : Nat} (hp : x.power = -(p : ℤ)) :
    roundMantissa x.d * 10 ^ p ≤ 792281625142643 * 10 ^ 14 := by
  have hge := h.power_ge
  rcases Nat.lt_or_ge p 14 with hlt | hge'
  · calc roundMantissa x.d * 10 ^ p ≤ 10 ^ 15 * 10 ^ 13 :=
          Nat.mul_le_mul h.roundMantissa_le (Nat.pow_le_pow_right (by norm_num) (by omega))
      _ ≤ 792281625142643 * 10 ^ 14 := by norm_num
  · obtain rfl : p = 14 := by omega
    exact Nat.mul_le_mul_right _ (h.mantissa_le hp)

theorem toNat_mantissa_pack {m : Nat} (sign : Bool) (scale : Nat) (h : m < 2 ^ 96) :
    (pack sign scale m).mantissa.toNat = m := by
  rw [mantissa_pack_eq, BitVec.toNat_ofNat, Nat.mod_eq_of_lt h]

theorem Scaled.InRange.mantissa_assemble_le {x : Scaled} (h : x.InRange) (sign : Bool) :
    (assemble sign x).record.mantissa.toNat ≤ 792281625142643 * 10 ^ 14 := by
  have hmant := h.roundMantissa_le
  by_cases hzero : roundMantissa x.d = 0
  · rw [assemble_zero hzero]
    exact Nat.zero_le _
  rcases lt_or_ge x.power 0 with hneg | hnonneg
  · obtain ⟨p, hp⟩ := Int.exists_eq_neg_ofNat hneg.le
    have hge := h.power_ge
    have hfits := h.product_lt hp
    rw [assemble_of_neg (by omega) (by omega) hp hzero (by omega), if_pos hfits]
    exact (toNat_mantissa_pack sign 0 hfits).trans_le (h.product_le hp)
  · obtain ⟨-, hle⟩ := factor_mant x.power hzero
    rw [assemble_of_nonneg hnonneg hzero]
    exact (toNat_mantissa_pack sign _ (by omega)).trans_le (by omega)

/-- Settles O33: the ranges of the scaled value, and what they leave for the mantissa; the largest mantissa is that of the
largest input. -/
theorem converterRanges : Obligations.ConverterRanges := by
  refine ⟨fun a hlo hhi => ?ranges, by decide +kernel⟩
  case ranges =>
    intro x
    have hlt : expField a < 1119 := by omega
    have hx : x = scaleMagnitude (magnitude a) (cvtExp a) := by rw [← magnitude_abs64]
    have hrange : x.InRange := hx ▸ scaleMagnitude_inRange hlo hlt
    have hwindow : x.InWindow (10 ^ 14) := hx ▸ scaleMagnitude_inWindow hlo hlt
    have hpositive : 0 < x.d := lt_of_lt_of_le (by norm_num) hwindow.normal
    refine ⟨⟨hrange.power_ge, power_scaleMagnitude_le _ _⟩, fun hpower => ⟨hwindow.ge hpower, hwindow.lt⟩,
      fun _ => ⟨hpositive, hwindow.lt⟩, hwindow.isF64, hwindow.normal, hrange.roundMantissa_le, hrange.widen_eq, ?_,
      (flagsLegal_cvt a).scale_le⟩
    rw [cvt_converted hlo hlt, ← hx]
    exact hrange.mantissa_assemble_le _

end Sys2Proof.Machine
end
